-- ==== Sys2Proof/Word.lean ====
section
/-! DEFINITION. The word types of the moteus link codec: the byte (the unit of every transfer, 20_memory.md R57) and
the 16- and 32-bit values (00_scope.md R7). -/

namespace Sys2Proof

/-- One byte: the unit of every transfer (R57). Bit 7 is its most significant bit (R8). -/
abbrev Byte := BitVec 8

/-- A checksum value (R7, R100). -/
abbrev Word16 := BitVec 16

/-- A varuint value, register id, channel id or count (R7). -/
abbrev Word32 := BitVec 32

end Sys2Proof
end

