-- ==== Sys2Proof/Config.lean ====
section
/-! DEFINITION. The configuration parameters of 00_scope.md R6: fixed at construction, never written while the block
runs. The spec leaves no computed value open, so there is no opaque constant here (see NOTES.md). -/

namespace Sys2Proof

/-- `OVERFLOW_POLICY` (R6): what an overflow of a queue, of the slot arena or of the frame buffer does. -/
inductive OverflowPolicy where
  | drop
  | fatal
deriving DecidableEq, Repr

/-- `ROLE` (R6): which tunnel direction the block receives. -/
inductive Role where
  | server
  | client
deriving DecidableEq, Repr

/-- The parameters of R6. `OWN_ID` is 0 to 127, so it is seven bits wide; the other bounds are `Config.legal`. -/
structure Config where
  /-- `MAX_PAYLOAD`: capacity of the frame payload buffer, receive and transmit. -/
  maxPayload : Nat
  /-- `RX_CHUNK_MAX`: largest byte count one transport read may return. -/
  rxChunkMax : Nat
  /-- `NUM_CHANNEL_SLOTS`: number of slots in the arena. -/
  numChannelSlots : Nat
  /-- `QUEUE_CAP`: capacity of each channel's receive queue. -/
  queueCap : Nat
  /-- `WRITE_MAX`: most bytes one pending channel write holds. -/
  writeMax : Nat
  /-- `OVERFLOW_POLICY`. -/
  overflowPolicy : OverflowPolicy
  /-- `OWN_ID`: the destination filter. -/
  ownId : BitVec 7
  /-- `ROLE`. -/
  role : Role
deriving DecidableEq, Repr

/-- The legal values of R6's table. -/
abbrev Config.legal (c : Config) : Prop :=
  1 ≤ c.maxPayload ∧ c.maxPayload < 2 ^ 32 ∧ 1 ≤ c.rxChunkMax ∧ 1 ≤ c.numChannelSlots ∧
    1 ≤ c.queueCap ∧ 1 ≤ c.writeMax

/-- The test configuration `TC` of R6 (and D49). DESIGN CHOICE, log 1: `State.reset` is built with it, because the
host asks for one reset state; R6 says that TC is no claim about any build. unsafe for a claim about `State.reset`
alone; every statement of this package quantifies over the configuration. -/
def Config.tc : Config where
  maxPayload := 127
  rxChunkMax := 64
  numChannelSlots := 4
  queueCap := 16
  writeMax := 64
  overflowPolicy := .drop
  ownId := 2
  role := .server

end Sys2Proof
end

