-- ==== Sys2Proof/Machine/Crc16.lean ====
section
/-! DEFINITION. The CRC function of 40_crc.md: `crc_step` (R100) and `crc16` (R101). `CRC_POLY` and `CRC_INIT` are named
constants so that decision D1 can be revised without touching a rule (log 13). -/

namespace Sys2Proof.Machine

/-- `CRC_POLY` (00_scope.md R7, 40_crc.md R100). -/
def crcPoly : Word16 := 0x1021

/-- `CRC_INIT` (R7, R101). -/
def crcInit : Word16 := 0xFFFF

/-- One of the eight rounds of `crc_step` (R100). -/
def crcShift (c : Word16) : Word16 := if c.msb then (c <<< 1) ^^^ crcPoly else c <<< 1

/-- `crc_step(c, b)`: fold one byte, most significant bit first (R100). -/
def crcStep (c : Word16) (b : Byte) : Word16 :=
  crcShift (crcShift (crcShift (crcShift (crcShift (crcShift (crcShift (crcShift (c ^^^ (b.setWidth 16 <<< 8)))))))))

/-- `crc16(s)`: `crc_step` folded over `s` from `CRC_INIT`, no final XOR, no reflection (R101). -/
def crc16 (s : List Byte) : Word16 := s.foldl crcStep crcInit

end Sys2Proof.Machine
end

