-- ==== Sys2Proof/Syntax.lean ====
section
/-! DEFINITION. The operations, internal steps and wire forms of spec/opcode_table.json: one constructor of `Instr`
per row (30_encoding.md R70, R76, R89). -/

namespace Sys2Proof

/-- Outcome codes of 30_encoding.md R90. -/
inductive OutCode where
  /-- `OK` = 0 -/
  | ok
  /-- `ERR_TRANSPORT` = 1 -/
  | errTransport
  /-- `ERR_INVALID` = 2 -/
  | errInvalid
  /-- `ERR_NO_SLOT` = 3 -/
  | errNoSlot
deriving DecidableEq, Repr

/-- The scalar type index of a typed tag, `tag[1:0]` (30_encoding.md R76, R77). -/
inductive TypeIndex where
  | int8
  | int16
  | int32
  | float32
deriving DecidableEq, Repr

/-- One delimited subframe of a payload (30_encoding.md R76 to R84): what `parse_subframe` of 43_demux.md R183
returns, the tag being the constructor and its type index. -/
inductive Subframe where
  /-- tags 0x10 to 0x13 (R78) -/
  | writeSingle (t : TypeIndex) (reg : Word32) (value : List Byte)
  /-- tags 0x14 to 0x17 (R79) -/
  | writeMultiple (t : TypeIndex) (start count : Word32) (values : List Byte)
  /-- tags 0x18 to 0x1B (R80) -/
  | readSingle (t : TypeIndex) (reg : Word32)
  /-- tags 0x1C to 0x1F (R81) -/
  | readMultiple (t : TypeIndex) (start count : Word32)
  /-- tags 0x20 to 0x23 (R82) -/
  | replySingle (t : TypeIndex) (reg : Word32) (value : List Byte)
  /-- tag 0x28 (R83) -/
  | writeError (reg : Word32) (code : Byte)
  /-- tag 0x40, client to server (R84) -/
  | tunnelC2s (ch : Word32) (data : List Byte)
  /-- tag 0x41, server to client (R84) -/
  | tunnelS2c (ch : Word32) (data : List Byte)
deriving DecidableEq, Repr

/-- One constructor per row of spec/opcode_table.json: the seventeen operations of the command port, the two internal
steps, the eight subframe kinds and the frame. -/
inductive Instr where
  /-- CRC.INIT, opcode 0x01 (40_crc.md R102) -/
  | crcInit
  /-- CRC.UPDATE, opcode 0x02 (R103) -/
  | crcUpdate (b : Byte)
  /-- CRC.READ, opcode 0x03 (R104) -/
  | crcRead
  /-- VU.ENC, opcode 0x08 (41_varuint.md R124) -/
  | vuEnc (v : Word32)
  /-- VU.DRST, opcode 0x09 (R125) -/
  | vuDrst
  /-- VU.DBYTE, opcode 0x0A (R126) -/
  | vuDbyte (b : Byte)
  /-- FRAME.WRITE, opcode 0x10 (42_frame.md R141) -/
  | frameWrite (rr : Byte) (src dst : Word32) (payload : List Byte)
  /-- TR.WDONE, opcode 0x11 (R142) -/
  | trWdone (outcome : OutCode)
  /-- FRAME.READ, opcode 0x12 (R143) -/
  | frameRead
  /-- TR.RDONE, opcode 0x13 (R144) -/
  | trRdone (chunk : List Byte)
  /-- TR.RERR, opcode 0x14 (R145) -/
  | trRerr
  /-- CH.READ, opcode 0x20 (44_channel.md R213) -/
  | chRead (ch cap : Word32)
  /-- CH.WRITE, opcode 0x21 (R214) -/
  | chWrite (ch : Word32) (data : List Byte)
  /-- TUNNEL.EMIT, opcode 0x22 (R215) -/
  | tunnelEmit (ch space : Word32)
  /-- RESET, opcode 0x30 (70_reset_and_hazards.md R270) -/
  | reset
  /-- STAT.READ, opcode 0x31 (60_exceptions.md R253) -/
  | statRead
  /-- FAULT.READ, opcode 0x32 (R253) -/
  | faultRead
  /-- RX.FETCH, trace code 0x80, internal step (42_frame.md R149) -/
  | rxFetch
  /-- RX.BYTE, trace code 0x81, internal step (R150) -/
  | rxByte
  /-- WriteSingle subframe (30_encoding.md R78) -/
  | writeSingle (t : TypeIndex) (reg : Word32) (value : List Byte)
  /-- WriteMultiple subframe (R79) -/
  | writeMultiple (t : TypeIndex) (start count : Word32) (values : List Byte)
  /-- ReadSingle subframe (R80) -/
  | readSingle (t : TypeIndex) (reg : Word32)
  /-- ReadMultiple subframe (R81) -/
  | readMultiple (t : TypeIndex) (start count : Word32)
  /-- ReplySingle subframe (R82) -/
  | replySingle (t : TypeIndex) (reg : Word32) (value : List Byte)
  /-- WriteError subframe (R83) -/
  | writeError (reg : Word32) (code : Byte)
  /-- TunnelData subframe, client to server (R84) -/
  | tunnelC2s (ch : Word32) (data : List Byte)
  /-- TunnelData subframe, server to client (R84) -/
  | tunnelS2c (ch : Word32) (data : List Byte)
  /-- Frame (R70). `len` is the payload-length varuint as it stands on the wire, because a non-minimal form is legal
  (41_varuint.md R127), is covered by the checksum and is passed on verbatim (43_demux.md R181). `crc` is the CRC
  field as it stands on the wire, right or wrong. -/
  | frame (rr : Bool) (src : BitVec 7) (dst : Byte) (len payload : List Byte) (crc : Word16)
deriving DecidableEq, Repr

/-- The instruction of a subframe: the same row of the opcode table. -/
def Instr.ofSubframe : Subframe → Instr
  | .writeSingle t reg value => .writeSingle t reg value
  | .writeMultiple t start count values => .writeMultiple t start count values
  | .readSingle t reg => .readSingle t reg
  | .readMultiple t start count => .readMultiple t start count
  | .replySingle t reg value => .replySingle t reg value
  | .writeError reg code => .writeError reg code
  | .tunnelC2s ch data => .tunnelC2s ch data
  | .tunnelS2c ch data => .tunnelS2c ch data

end Sys2Proof
end

