-- ==== Sys2Proof/Machine/Operands.lean ====
section
/-! DEFINITION. The operand forms: the parse result, the byte order (20_memory.md R52), the four operand types of the
command port (30_encoding.md R88), outcome codes (R90), scalar sizes (R77) and the tag bytes (R76). -/

namespace Sys2Proof.Machine

/-- Why a byte sequence spells nothing. Each reason is named after the rule that makes it one. -/
inductive DecodeError where
  /-- The bytes end inside the encoding (`TRUNC` of 41_varuint.md R123, a short `FIX` of 43_demux.md R183, or a
  command record cut short: DESIGN CHOICE, log 3, safe). -/
  | truncated
  /-- An opcode that 30_encoding.md R89 does not list for this place (60_exceptions.md R249 a). -/
  | unknownOpcode (op : Byte)
  /-- An outcome code that TR.WDONE may not carry (30_encoding.md R90, 60_exceptions.md R249 b). -/
  | badOutcome (code : Byte)
  /-- `BAD`: an overlong or overflowing varuint (41_varuint.md R123, R128). -/
  | badVaruint
  /-- A tag with no body layout (30_encoding.md R85). -/
  | unassignedTag (tag : Byte)
  /-- The bytes do not open with `54 AB` (30_encoding.md R70). -/
  | badMagic
deriving DecidableEq, Repr

/-- What a parser answers: a value and the bytes after it, or the reason there is none. -/
inductive Parse (α : Type) where
  | ok (v : α) (rest : List Byte)
  | err (e : DecodeError)
deriving DecidableEq, Repr

/-- Parse on from where the first parser stopped. -/
def Parse.andThen {α β : Type} (p : Parse α) (k : α → List Byte → Parse β) : Parse β :=
  match p with
  | .ok v rest => k v rest
  | .err e => .err e

/-- The value under a function. -/
def Parse.map {α β : Type} (f : α → β) (p : Parse α) : Parse β :=
  match p with
  | .ok v rest => .ok (f v) rest
  | .err e => .err e

/-- A 16-bit field in wire order, least significant byte first (20_memory.md R52). -/
def le16 (v : Word16) : List Byte := [v.extractLsb' 0 8, v.extractLsb' 8 8]

/-- The 16-bit field with the given low and high byte (R52). -/
def ofLe16 (lo hi : Byte) : Word16 := hi ++ lo

/-- A `u32` in wire order, least significant byte first (30_encoding.md R88). -/
def le32 (v : Word32) : List Byte :=
  [v.extractLsb' 0 8, v.extractLsb' 8 8, v.extractLsb' 16 8, v.extractLsb' 24 8]

/-- The `u32` with the given bytes, least significant first (R88). -/
def ofLe32 (b0 b1 b2 b3 : Byte) : Word32 := b3 ++ (b2 ++ (b1 ++ b0))

/-- `FIX(m)` of 43_demux.md R183: the next `m` bytes, or none if fewer remain. -/
def fix (m : Nat) (s : List Byte) : Parse (List Byte) :=
  if m ≤ s.length then .ok (s.take m) (s.drop m) else .err .truncated

/-- Operand type `b8` (30_encoding.md R88). -/
def takeB8 : List Byte → Parse Byte
  | b :: rest => .ok b rest
  | [] => .err .truncated

/-- Operand type `u32` (R88). -/
def takeU32 : List Byte → Parse Word32
  | b0 :: b1 :: b2 :: b3 :: rest => .ok (ofLe32 b0 b1 b2 b3) rest
  | _ => .err .truncated

/-- Operand type `seq` (R88): a `u32` length, then that many bytes. -/
def takeSeq (s : List Byte) : Parse (List Byte) :=
  (takeU32 s).andThen fun n rest => fix n.toNat rest

/-- A `seq` operand as bytes (R88). -/
def seqBytes (s : List Byte) : List Byte := le32 (BitVec.ofNat 32 s.length) ++ s

/-- Outcome codes as bytes (30_encoding.md R90). -/
def outByte : OutCode → Byte
  | .ok => 0x00
  | .errTransport => 0x01
  | .errInvalid => 0x02
  | .errNoSlot => 0x03

/-- The `out8` operand of TR.WDONE: only `OK` and `ERR_TRANSPORT` (R90). -/
def takeOut8 : List Byte → Parse OutCode
  | b :: rest =>
    if b = 0x00 then .ok .ok rest
    else if b = 0x01 then .ok .errTransport rest
    else .err (.badOutcome b)
  | [] => .err .truncated

/-- The type index as `tag[1:0]` (30_encoding.md R76). -/
def typeBits : TypeIndex → Byte
  | .int8 => 0x00
  | .int16 => 0x01
  | .int32 => 0x02
  | .float32 => 0x03

/-- The type index in `tag[1:0]` (R76). -/
def typeOfTag (tag : Byte) : TypeIndex :=
  if tag &&& 0x03 = 0x00 then .int8
  else if tag &&& 0x03 = 0x01 then .int16
  else if tag &&& 0x03 = 0x02 then .int32
  else .float32

/-- `size(t)`: the bytes of one scalar (30_encoding.md R77). -/
def scalarSize : TypeIndex → Nat
  | .int8 => 1
  | .int16 => 2
  | .int32 => 4
  | .float32 => 4

/-- The tag byte of a subframe (30_encoding.md R76): group base plus type index. -/
def tagByte : Subframe → Byte
  | .writeSingle t _ _ => 0x10 ||| typeBits t
  | .writeMultiple t _ _ _ => 0x14 ||| typeBits t
  | .readSingle t _ => 0x18 ||| typeBits t
  | .readMultiple t _ _ => 0x1C ||| typeBits t
  | .replySingle t _ _ => 0x20 ||| typeBits t
  | .writeError _ _ => 0x28
  | .tunnelC2s _ _ => 0x40
  | .tunnelS2c _ _ => 0x41

end Sys2Proof.Machine
end

