-- ==== Sys2Proof/Machine/State.lean ====
section
/-! DEFINITION. The state of the block (10_state.md R20 to R40), its output events (60_exceptions.md R241), why an
input is refused (R249), and the state after construction and reset (R40, 70_reset_and_hazards.md R270, R271). -/

namespace Sys2Proof.Machine

/-- `rx_state`, the receiver's sequencer (10_state.md R22). -/
inductive RxState where
  | hunt0
  | hunt1
  | src
  | dst
  | len
  | payload
  | crc0
  | crc1
deriving DecidableEq, Repr

/-- `vu_st` (10_state.md R35), and the `st` field of `VU_RESULT` (60_exceptions.md R241). -/
inductive VuSt where
  | idle
  | more
  | done
  | err
deriving DecidableEq, Repr

/-- The bits of the sticky fault register, in bit order (10_state.md R33). -/
inductive FaultBit where
  /-- bit 0: CH.READ on a channel with a pending read (R213) -/
  | chReadBusy
  /-- bit 1: CH.WRITE on a channel with a pending write (R214) -/
  | chWriteBusy
  /-- bit 2: FRAME.READ while armed (R143) -/
  | frameReadBusy
  /-- bit 3: FRAME.WRITE while busy (R141) -/
  | frameWriteBusy
  /-- bit 4: FRAME.WRITE with a field out of range (R141) -/
  | frameWriteInvalid
  /-- bit 5: a channel queue overflow under FATAL (R212) -/
  | queueOverflow
  /-- bit 6: a new channel with no free slot, under FATAL (R211) -/
  | slotExhausted
  /-- bit 7: a received payload length above MAX_PAYLOAD, under FATAL (R150) -/
  | rxFrameOverflow
deriving DecidableEq, Repr

/-- One slot of the channel arena (10_state.md R36). -/
structure Slot where
  /-- the slot is claimed by a channel -/
  used : Bool
  /-- the channel number, meaningful when `used` -/
  id : Word32
  /-- the receive queue, oldest byte first, capacity QUEUE_CAP -/
  q : List Byte
  /-- a read is pending -/
  prd : Bool
  /-- the pending read's buffer capacity -/
  prdCap : Word32
  /-- a write is pending -/
  pwr : Bool
  /-- the pending write's bytes, capacity WRITE_MAX -/
  pwrData : List Byte
deriving DecidableEq, Repr

/-- The reset column of R36. -/
def Slot.reset : Slot where
  used := false
  id := 0
  q := []
  prd := false
  prdCap := 0
  pwr := false
  pwrData := []

/-- What `FRAME_RD_DONE` carries on `OK` (60_exceptions.md R241). -/
structure Delivered where
  /-- `request_reply`, carried and never acted on (30_encoding.md R71) -/
  rr : Bool
  /-- `source_id` -/
  src : BitVec 7
  /-- `dest_id` -/
  dst : Byte
  /-- the payload -/
  payload : List Byte
  /-- the frame is addressed to this block (43_demux.md R180) -/
  forUs : Bool
deriving DecidableEq, Repr

/-- The output events (60_exceptions.md R241). -/
inductive Event where
  /-- `TR_READ_REQ(max)` -/
  | trReadReq (max : Nat)
  /-- `TR_WRITE_REQ(bytes)` -/
  | trWriteReq (bytes : List Byte)
  /-- `FRAME_RD_DONE(outcome)`, on `OK` with the frame's fields -/
  | frameRdDone (outcome : OutCode) (got : Option Delivered)
  /-- `FRAME_WR_DONE(outcome)` -/
  | frameWrDone (outcome : OutCode)
  /-- `UNKNOWN_FRAME(raw)` -/
  | unknownFrame (raw : List Byte)
  /-- `DISPATCH(tag, reg, count, data)` -/
  | dispatch (tag : Byte) (reg count : Word32) (data : List Byte)
  /-- `CH_RD_DONE(ch, outcome, data)` -/
  | chRdDone (ch : Word32) (outcome : OutCode) (data : List Byte)
  /-- `CH_WR_DONE(ch, outcome, n)` -/
  | chWrDone (ch : Word32) (outcome : OutCode) (n : Nat)
  /-- `EMIT_DATA(ch, sub)` -/
  | emitData (ch : Word32) (sub : List Byte)
  /-- `CRC_VALUE(v)` -/
  | crcValue (v : Word16)
  /-- `VU_BYTES(bytes)` -/
  | vuBytes (bytes : List Byte)
  /-- `VU_RESULT(st, v)` -/
  | vuResult (st : VuSt) (v : Word32)
  /-- `STAT_VALUE(wrong_id)` -/
  | statValue (wrongId : Word32)
  /-- `FAULT_VALUE(fault)` -/
  | faultValue (fault : BitVec 8)
deriving DecidableEq, Repr

/-- Who is to move (00_scope.md R17). -/
inductive Turn where
  /-- the environment presents the next command record -/
  | env
  /-- the block takes an internal step of its own -/
  | block
deriving DecidableEq, Repr

/-- Why the machine stops with a fault: never. The block has no traps (60_exceptions.md R240, R247), and a set bit of
the fault register does not halt it (10_state.md R33), so no constructor is raised by anyone. DEDUCED, log 6, safe. -/
inductive Fault where
deriving DecidableEq, Repr

/-- Why an input has no step (60_exceptions.md R249). The outcome `refused` is the mark R249 asks for: a run that
contains a refused input ends there. DEDUCED, log 5, safe. -/
inductive Refusal where
  /-- Raised by an arm of `exec` without a meaning. No arm uses it. Safe. -/
  | notModelled (mnemonic : String)
  /-- Raised by the fetch, for the reason the decoder names: an opcode that R89 does not list, 0x80 or 0x81 on the port
  (R249 a), a TR.WDONE outcome that is neither `OK` nor `ERR_TRANSPORT` (R249 b; TR.WDONE raises it too), or bytes that
  end inside a record (DESIGN CHOICE, log 3). Safe. -/
  | badRecord (why : DecodeError)
  /-- Raised by TR.RDONE and TR.RERR while `tr_rd_pending = 0` (R249 c). Safe. -/
  | noReadOutstanding
  /-- Raised by TR.RDONE with a chunk longer than RX_CHUNK_MAX (R249 d). Safe. -/
  | chunkTooLong
  /-- Raised by TR.WDONE while `tx_busy = 0` (R249 e). Safe. -/
  | noWriteOutstanding
  /-- Raised by RX.FETCH and RX.BYTE when their guard is false: the block does not take that step (00_scope.md R2).
  DEDUCED, log 7. Safe. -/
  | guardFalse
deriving DecidableEq, Repr

/-- The whole state: 10_state.md R20's elements, then the model's own four fields (logs 1 to 4). -/
structure State where
  /-- `rx_armed` (R21) -/
  rxArmed : Bool
  /-- `rx_state` (R22) -/
  rxState : RxState
  /-- `rx_crc` (R23) -/
  rxCrc : Word16
  /-- `rx_src` (R24) -/
  rxSrc : Byte
  /-- `rx_dst` (R25) -/
  rxDst : Byte
  /-- `rx_vacc` (R26) -/
  rxVacc : Word32
  /-- `rx_vn` (R26): three bits, values 0 to 4. DEDUCED, log 16, safe -/
  rxVn : Fin 5
  /-- `rx_len` (R27) -/
  rxLen : Word32
  /-- `rx_pay` (R27) -/
  rxPay : List Byte
  /-- `rx_crc_lo` (R28) -/
  rxCrcLo : Byte
  /-- `rx_raw` (R29) -/
  rxRaw : List Byte
  /-- `in_fifo` (R30) -/
  inFifo : List Byte
  /-- `tr_rd_pending` (R30) -/
  trRdPending : Bool
  /-- `tx_busy` (R31) -/
  txBusy : Bool
  /-- `wrong_id` (R32) -/
  wrongId : Word32
  /-- `fault` (R33) -/
  fault : BitVec 8
  /-- `crc_reg` (R34) -/
  crcReg : Word16
  /-- `vu_acc` (R35) -/
  vuAcc : Word32
  /-- `vu_n` (R35) -/
  vuN : Fin 5
  /-- `vu_st` (R35) -/
  vuSt : VuSt
  /-- `slot[0 .. NUM_CHANNEL_SLOTS-1]` (R36) -/
  slots : List Slot
  /-- The configuration parameters (00_scope.md R6): an argument of the model, carried here because `exec` and `step`
  take a state alone; no step writes it. DESIGN CHOICE, log 1 -/
  cfg : Config
  /-- The bytes waiting on the command port (30_encoding.md R88). DESIGN CHOICE, log 3 -/
  port : List Byte
  /-- Whose moves are next (00_scope.md R17). DESIGN CHOICE, log 4 -/
  sched : List Turn
  /-- The output event sequence, oldest first (60_exceptions.md R241). DESIGN CHOICE, log 2 -/
  out : List Event
deriving DecidableEq, Repr

/-- A block just constructed with configuration `c` (70_reset_and_hazards.md R271): every element at its value of
10_state.md R40, nothing presented, nothing emitted. -/
def State.init (c : Config) : State where
  rxArmed := false
  rxState := .hunt0
  rxCrc := crcInit
  rxSrc := 0
  rxDst := 0
  rxVacc := 0
  rxVn := 0
  rxLen := 0
  rxPay := []
  rxCrcLo := 0
  rxRaw := []
  inFifo := []
  trRdPending := false
  txBusy := false
  wrongId := 0
  fault := 0
  crcReg := crcInit
  vuAcc := 0
  vuN := 0
  vuSt := .idle
  slots := List.replicate c.numChannelSlots Slot.reset
  cfg := c
  port := []
  sched := []
  out := []

/-- The machine right after reset, with the test configuration of 00_scope.md R6. DESIGN CHOICE, log 1. -/
def State.reset : State := State.init Config.tc

end Sys2Proof.Machine
end

