-- ==== Sys2Proof/Machine/Flags.lean ====
section
/-! DEFINITION. The status values: the fault bits (10_state.md R33), `raise Fault(NAME)` (00_scope.md R12), and the
numeric codes of `rx_state` (R22) and `vu_st` (R35). The block has no condition codes. -/

namespace Sys2Proof.Machine

/-- The bit number of a fault (10_state.md R33). -/
def faultIndex : FaultBit → Nat
  | .chReadBusy => 0
  | .chWriteBusy => 1
  | .frameReadBusy => 2
  | .frameWriteBusy => 3
  | .frameWriteInvalid => 4
  | .queueOverflow => 5
  | .slotExhausted => 6
  | .rxFrameOverflow => 7

/-- The fault register with one bit set (R33). -/
def faultMask (b : FaultBit) : BitVec 8 := 1#8 <<< faultIndex b

/-- `raise Fault(NAME)`: set the bit, go on (00_scope.md R12). -/
def raiseFault (b : FaultBit) (s : State) : State := { s with fault := s.fault ||| faultMask b }

/-- `if OVERFLOW_POLICY = FATAL then raise Fault(NAME)` (42_frame.md R150, 44_channel.md R211, R212). -/
def raiseIfFatal (b : FaultBit) (s : State) : State :=
  if s.cfg.overflowPolicy = .fatal then raiseFault b s else s

/-- The codes of `rx_state` (10_state.md R22). -/
def rxStateCode : RxState → BitVec 3
  | .hunt0 => 0
  | .hunt1 => 1
  | .src => 2
  | .dst => 3
  | .len => 4
  | .payload => 5
  | .crc0 => 6
  | .crc1 => 7

/-- The codes of `vu_st` (10_state.md R35). -/
def vuStCode : VuSt → BitVec 2
  | .idle => 0
  | .more => 1
  | .done => 2
  | .err => 3

end Sys2Proof.Machine
end

