-- ==== Sys2Proof/Machine/Varuint.lean ====
section
/-! DEFINITION. The varuint functions of 41_varuint.md: `vu_len` (R120), `vu_enc` (R121), `vu_step` (R122) and
`vu_parse` (R123). -/

namespace Sys2Proof.Machine

/-- `vu_len(v)` (R120). -/
def vuLen (v : Nat) : Nat :=
  if v ≤ 127 then 1 else if v ≤ 16383 then 2 else if v ≤ 2097151 then 3 else if v ≤ 268435455 then 4 else 5

/-- The loop of `vu_enc` (R121); a 32-bit value needs at most five rounds. -/
def vuEncFrom : Nat → Word32 → List Byte
  | 0, _ => []
  | n + 1, v =>
    let g : Byte := v.setWidth 8 &&& 0x7F
    if v >>> 7 ≠ 0 then (0x80 ||| g) :: vuEncFrom n (v >>> 7) else [g]

/-- `vu_enc(v)`: the minimal encoding (R121). -/
def vuEnc (v : Word32) : List Byte := vuEncFrom 5 v

/-- The result `r` of `vu_step` (R122). -/
inductive VuRes where
  | more
  | done (v : Word32)
  | err
deriving DecidableEq, Repr

/-- `vu_step(acc, n, b)`: one byte of the incremental decoder (R122). -/
def vuStep (acc : Word32) (n : Fin 5) (b : Byte) : Word32 × Fin 5 × VuRes :=
  if n = 4 then
    if b >>> 4 ≠ 0 then (0, 0, .err)
    else (0, 0, .done (acc ||| ((b &&& 0x0F).setWidth 32 <<< 28)))
  else
    let acc' := acc ||| ((b &&& 0x7F).setWidth 32 <<< (7 * n.val))
    if b.msb then (acc', n + 1, .more) else (0, 0, .done acc')

/-- The loop of `vu_parse` (R123) from a partial value: `.err .truncated` is `TRUNC`, `.err .badVaruint` is `BAD`. -/
def vuParseFrom (acc : Word32) (n : Fin 5) : List Byte → Parse Word32
  | [] => .err .truncated
  | b :: rest =>
    match vuStep acc n b with
    | (acc', n', .more) => vuParseFrom acc' n' rest
    | (_, _, .done v) => .ok v rest
    | (_, _, .err) => .err .badVaruint

/-- `vu_parse(s, p)` (R123): `s` is the bytes from position `p` on, and the rest of the answer those from `p'` on. -/
def vuParse (s : List Byte) : Parse Word32 := vuParseFrom 0 0 s

end Sys2Proof.Machine
end

