-- ==== Sys2Proof/Machine/Ops.lean ====
section
/-! DEFINITION. The named operations over State that the rules share: `emit` (00_scope.md R12), the slot arena
(44_channel.md R210 to R212), and the receiver's `rx_resync` and `rx_start` (42_frame.md R146, R147). There is no
operation that takes an exception or returns from one: the block has none (60_exceptions.md R240, R247). -/

namespace Sys2Proof.Machine

/-- `emit E`: append to the output event sequence (00_scope.md R12). -/
def emit (e : Event) (s : State) : State := { s with out := s.out ++ [e] }

/-- Slot `i` (10_state.md R36). -/
def slotAt (s : State) (i : Nat) : Slot := s.slots.getD i Slot.reset

/-- Write slot `i`. -/
def setSlot (i : Nat) (sl : Slot) (s : State) : State := { s with slots := s.slots.set i sl }

/-- `some i has slot[i].used = 1 and slot[i].id = ch` (44_channel.md R210); no two used slots have one id (10_state.md
R37 a), and where a state that no run reaches has two, the least is taken. DEDUCED, log 14, safe. -/
def findSlot (ch : Word32) (s : State) : Option Nat := s.slots.findIdx? fun sl => sl.used && sl.id == ch

/-- `the least i with slot[i].used = 0` (R210). -/
def freeSlot (s : State) : Option Nat := s.slots.findIdx? fun sl => !sl.used

/-- `slot_lookup(ch, create)` (44_channel.md R210). -/
def slotLookup (ch : Word32) (create : Bool) (s : State) : Option Nat × State :=
  match findSlot ch s with
  | some i => (some i, s)
  | none =>
    if create then
      match freeSlot s with
      | some i => (some i, setSlot i { slotAt s i with used := true, id := ch } s)
      | none => (none, s)
    else (none, s)

/-- `slot_exhausted()` (44_channel.md R211). -/
def slotExhausted (s : State) : State := raiseIfFatal .slotExhausted s

/-- `queue_in(i, d)` (44_channel.md R212): keep what fits, drop the tail, and record the overflow under FATAL. -/
def queueIn (i : Nat) (d : List Byte) (s : State) : State :=
  let f := s.cfg.queueCap - (slotAt s i).q.length
  setSlot i { slotAt s i with q := (slotAt s i).q ++ d.take f }
    (if d.length > f then raiseIfFatal .queueOverflow s else s)

/-- The RX tag (00_scope.md R15, 43_demux.md R185). -/
def rxTag (c : Config) : Byte := if c.role = .server then 0x40 else 0x41

/-- The TX tag, the other of the two (R15, 44_channel.md R215). -/
def txTag (c : Config) : Byte := if c.role = .server then 0x41 else 0x40

/-- `rx_resync()` (42_frame.md R146). -/
def rxResync (s : State) : State :=
  { s with rxState := .hunt0, rxRaw := [], rxPay := [], rxVacc := 0, rxVn := 0, rxLen := 0 }

/-- `rx_start()` (42_frame.md R147). -/
def rxStart (s : State) : State :=
  { s with rxState := .hunt1, rxRaw := [0x54], rxCrc := crcStep crcInit 0x54 }

/-- `acc(b)` of 42_frame.md R150. -/
def rxAcc (b : Byte) (s : State) : State :=
  { s with rxRaw := s.rxRaw ++ [b], rxCrc := crcStep s.rxCrc b }

end Sys2Proof.Machine
end

