-- ==== Sys2Proof/Machine/Channel.lean ====
section
/-! DEFINITION. The channel operations (44_channel.md R213 to R216). -/

namespace Sys2Proof.Machine

/-- CH.READ once the slot is known (44_channel.md R213): busy, then `cap = 0`, then the queue (60_exceptions.md R248). -/
def chReadSlot (i : Nat) (ch cap : Word32) (s : State) : State :=
  if (slotAt s i).prd then raiseFault .chReadBusy s
  else if cap = 0 then emit (.chRdDone ch .ok []) s
  else if (slotAt s i).q ≠ [] then
    emit (.chRdDone ch .ok ((slotAt s i).q.take cap.toNat))
      (setSlot i { slotAt s i with q := (slotAt s i).q.drop cap.toNat } s)
  else setSlot i { slotAt s i with prd := true, prdCap := cap } s

/-- CH.READ (R213). -/
def execChRead (ch cap : Word32) (s : State) : Host.Outcome State Fault Refusal :=
  match slotLookup ch true s with
  | (none, s') => .next (emit (.chRdDone ch .errNoSlot []) (slotExhausted s'))
  | (some i, s') => .next (chReadSlot i ch cap s')

/-- CH.WRITE once the slot is known (44_channel.md R214): busy, then empty data (60_exceptions.md R248). -/
def chWriteSlot (i : Nat) (ch : Word32) (data : List Byte) (s : State) : State :=
  if (slotAt s i).pwr then raiseFault .chWriteBusy s
  else if data = [] then emit (.chWrDone ch .ok 0) s
  else setSlot i { slotAt s i with pwr := true, pwrData := data.take s.cfg.writeMax } s

/-- CH.WRITE (R214). -/
def execChWrite (ch : Word32) (data : List Byte) (s : State) : Host.Outcome State Fault Refusal :=
  match slotLookup ch true s with
  | (none, s') => .next (emit (.chWrDone ch .errNoSlot 0) (slotExhausted s'))
  | (some i, s') => .next (chWriteSlot i ch data s')

/-- `emit_size(ch, m, space)` (44_channel.md R216): the largest `n ≤ m` whose subframe fits, or 0. -/
def emitSize (ch : Word32) : Nat → Nat → Nat
  | 0, _ => 0
  | n + 1, space =>
    if 1 + vuLen ch.toNat + vuLen (n + 1) + (n + 1) ≤ space then n + 1 else emitSize ch n space

/-- The TunnelData subframe that TUNNEL.EMIT builds (44_channel.md R215). -/
def emitSub (c : Config) (ch : Word32) (d : List Byte) : List Byte :=
  [txTag c] ++ vuEnc ch ++ vuEnc (BitVec.ofNat 32 d.length) ++ d

/-- TUNNEL.EMIT once the slot is known (44_channel.md R215). -/
def tunnelEmitSlot (i : Nat) (ch space : Word32) (s : State) : State :=
  if (slotAt s i).pwr = false then emit (.emitData ch []) s
  else
    let n := emitSize ch (slotAt s i).pwrData.length space.toNat
    if n = 0 then emit (.emitData ch []) s
    else
      emit (.chWrDone ch .ok n)
        (emit (.emitData ch (emitSub s.cfg ch ((slotAt s i).pwrData.take n)))
          (setSlot i { slotAt s i with pwr := false, pwrData := [] } s))

/-- TUNNEL.EMIT (R215): it never claims a slot. -/
def execTunnelEmit (ch space : Word32) (s : State) : Host.Outcome State Fault Refusal :=
  match slotLookup ch false s with
  | (none, s') => .next (emit (.emitData ch []) s')
  | (some i, s') => .next (tunnelEmitSlot i ch space s')

end Sys2Proof.Machine
end

