-- ==== Sys2Proof/Machine/CrcUnit.lean ====
section
/-! DEFINITION. The stand-alone CRC generator (40_crc.md R102 to R104). -/

namespace Sys2Proof.Machine

/-- CRC.INIT (R102). -/
def execCrcInit (s : State) : Host.Outcome State Fault Refusal := .next { s with crcReg := crcInit }

/-- CRC.UPDATE (R103). -/
def execCrcUpdate (b : Byte) (s : State) : Host.Outcome State Fault Refusal :=
  .next { s with crcReg := crcStep s.crcReg b }

/-- CRC.READ (R104): the register is not changed. -/
def execCrcRead (s : State) : Host.Outcome State Fault Refusal := .next (emit (.crcValue s.crcReg) s)

end Sys2Proof.Machine
end

