-- ==== Sys2Proof/Machine/FrameLayer.lean ====
section
/-! DEFINITION. The frame serializer and the transport handshake (42_frame.md R140 to R145). -/

namespace Sys2Proof.Machine

/-- A frame's bytes up to the CRC field (42_frame.md R140). -/
def frameBody (rr : Byte) (src dst : Word32) (p : List Byte) : List Byte :=
  ([0x54, 0xAB, (rr <<< 7) ||| src.setWidth 8, dst.setWidth 8] : List Byte) ++
    vuEnc (BitVec.ofNat 32 p.length) ++ p

/-- `frame_bytes(rr, src, dst, p)` (42_frame.md R140): the CRC field has its low byte first. -/
def frameBytes (rr : Byte) (src dst : Word32) (p : List Byte) : List Byte :=
  frameBody rr src dst p ++ le16 (crc16 (frameBody rr src dst p))

/-- FRAME.WRITE (R141): busy before range (60_exceptions.md R248). -/
def execFrameWrite (rr : Byte) (src dst : Word32) (payload : List Byte) (s : State) :
    Host.Outcome State Fault Refusal :=
  if s.txBusy then .next (raiseFault .frameWriteBusy s)
  else if rr.toNat > 1 ∨ src.toNat > 127 ∨ dst.toNat > 255 ∨ payload.length > s.cfg.maxPayload then
    .next (emit (.frameWrDone .errInvalid) (raiseFault .frameWriteInvalid s))
  else .next (emit (.trWriteReq (frameBytes rr src dst payload)) { s with txBusy := true })

/-- TR.WDONE (R142). Refused while no write is outstanding (60_exceptions.md R249 e) and for an outcome that is neither
`OK` nor `ERR_TRANSPORT` (R249 b). -/
def execTrWdone (outcome : OutCode) (s : State) : Host.Outcome State Fault Refusal :=
  if outcome = .ok ∨ outcome = .errTransport then
    if s.txBusy then .next (emit (.frameWrDone outcome) { s with txBusy := false })
    else .refused .noWriteOutstanding
  else .refused (.badRecord (.badOutcome (outByte outcome)))

/-- FRAME.READ (R143). -/
def execFrameRead (s : State) : Host.Outcome State Fault Refusal :=
  if s.rxArmed then .next (raiseFault .frameReadBusy s) else .next { s with rxArmed := true }

/-- TR.RDONE (R144). Refused without a request and for a chunk above RX_CHUNK_MAX (60_exceptions.md R249 c, d). -/
def execTrRdone (chunk : List Byte) (s : State) : Host.Outcome State Fault Refusal :=
  if s.trRdPending then
    if chunk.length ≤ s.cfg.rxChunkMax then .next { s with trRdPending := false, inFifo := chunk }
    else .refused .chunkTooLong
  else .refused .noReadOutstanding

/-- TR.RERR (R145). `in_fifo` is left alone, as R146 says; D10's "discards `in_fifo`" says the same in every reachable
state, where `in_fifo` is empty while a read is pending (10_state.md R30). DEDUCED, log 12, safe. -/
def execTrRerr (s : State) : Host.Outcome State Fault Refusal :=
  if s.trRdPending then
    .next (emit (.frameRdDone .errTransport none) { rxResync { s with trRdPending := false } with rxArmed := false })
  else .refused .noReadOutstanding

end Sys2Proof.Machine
end

