-- ==== Sys2Proof/WellFormed.lean ====
section
/-! DEFINITION. Which terms of `Instr` the encodings of 30_encoding.md admit. -/

namespace Sys2Proof

open Sys2Proof.Machine

/-- A `seq` operand, a tunnel body or a payload: its length fits the 32-bit length that goes before it (30_encoding.md
R88, R84, R87). -/
abbrev fits32 (s : List Byte) : Prop := s.length < 2 ^ 32

/-- A subframe as 30_encoding.md R78 to R84 lay it out. -/
def Subframe.wf : Subframe → Bool
  | .writeSingle t _ value => decide (value.length = scalarSize t)
  | .writeMultiple t _ count values => decide (values.length = count.toNat * scalarSize t)
  | .readSingle _ _ => true
  | .readMultiple _ _ _ => true
  | .replySingle t _ value => decide (value.length = scalarSize t)
  | .writeError _ _ => true
  | .tunnelC2s _ data => decide (fits32 data)
  | .tunnelS2c _ data => decide (fits32 data)

/-- An instruction that has an encoding: `seq` operands fit their length (R88), TR.WDONE carries `OK` or
`ERR_TRANSPORT` (R90), a subframe has the body its tag asks for, and a frame's length bytes are one varuint that says
the payload's length (R70, R87). -/
def Instr.wf : Instr → Bool
  | .crcInit => true
  | .crcUpdate _ => true
  | .crcRead => true
  | .vuEnc _ => true
  | .vuDrst => true
  | .vuDbyte _ => true
  | .frameWrite _ _ _ payload => decide (fits32 payload)
  | .trWdone outcome => decide (outcome = .ok ∨ outcome = .errTransport)
  | .frameRead => true
  | .trRdone chunk => decide (fits32 chunk)
  | .trRerr => true
  | .chRead _ _ => true
  | .chWrite _ data => decide (fits32 data)
  | .tunnelEmit _ _ => true
  | .reset => true
  | .statRead => true
  | .faultRead => true
  | .rxFetch => true
  | .rxByte => true
  | .writeSingle t reg value => (Subframe.writeSingle t reg value).wf
  | .writeMultiple t start count values => (Subframe.writeMultiple t start count values).wf
  | .readSingle t reg => (Subframe.readSingle t reg).wf
  | .readMultiple t start count => (Subframe.readMultiple t start count).wf
  | .replySingle t reg value => (Subframe.replySingle t reg value).wf
  | .writeError reg code => (Subframe.writeError reg code).wf
  | .tunnelC2s ch data => (Subframe.tunnelC2s ch data).wf
  | .tunnelS2c ch data => (Subframe.tunnelS2c ch data).wf
  | .frame _ _ _ len payload _ =>
    decide (fits32 payload ∧ vuParse len = .ok (BitVec.ofNat 32 payload.length) [])

end Sys2Proof
end

