-- ==== Sys2Proof/Decode.lean ====
section
/-! DEFINITION. The decoders, total on any bytes and rejecting by name, and after them the encoder. Command records
(30_encoding.md R88, R89), trace codes of the internal steps (R89), subframes (R76 to R84, 43_demux.md R183) and frames
(R70) are read at four different places, because their leading bytes overlap in value (log 10). -/

namespace Sys2Proof

open Sys2Proof.Machine

/-- A command record at the head of the command port (R88, R89), and the bytes after it. 0x80 and 0x81 spell no
operation here (R89). -/
def decodeCommand : List Byte → Parse Instr
  | [] => .err .truncated
  | op :: r =>
    if op = 0x01 then .ok .crcInit r
    else if op = 0x02 then (takeB8 r).map .crcUpdate
    else if op = 0x03 then .ok .crcRead r
    else if op = 0x08 then (takeU32 r).map .vuEnc
    else if op = 0x09 then .ok .vuDrst r
    else if op = 0x0A then (takeB8 r).map .vuDbyte
    else if op = 0x10 then
      (takeB8 r).andThen fun rr r => (takeU32 r).andThen fun src r => (takeU32 r).andThen fun dst r =>
        (takeSeq r).map (.frameWrite rr src dst)
    else if op = 0x11 then (takeOut8 r).map .trWdone
    else if op = 0x12 then .ok .frameRead r
    else if op = 0x13 then (takeSeq r).map .trRdone
    else if op = 0x14 then .ok .trRerr r
    else if op = 0x20 then (takeU32 r).andThen fun ch r => (takeU32 r).map (.chRead ch)
    else if op = 0x21 then (takeU32 r).andThen fun ch r => (takeSeq r).map (.chWrite ch)
    else if op = 0x22 then (takeU32 r).andThen fun ch r => (takeU32 r).map (.tunnelEmit ch)
    else if op = 0x30 then .ok .reset r
    else if op = 0x31 then .ok .statRead r
    else if op = 0x32 then .ok .faultRead r
    else .err (.unknownOpcode op)

/-- A step of a trace (R89): an internal step by its code 0x80 or 0x81, or a command record. -/
def decodeTrace : List Byte → Parse Instr
  | [] => .err .truncated
  | op :: r =>
    if op = 0x80 then .ok .rxFetch r
    else if op = 0x81 then .ok .rxByte r
    else decodeCommand (op :: r)

/-- `parse_subframe` (43_demux.md R183): the subframe at the head of the bytes, and the bytes after it. Every error is
`STOP`. `count * size(t)` is on unbounded integers. -/
def parseSubframe : List Byte → Parse Subframe
  | [] => .err .truncated
  | tag :: r =>
    let t := typeOfTag tag
    if tag &&& 0xFC = 0x10 then
      (vuParse r).andThen fun reg r => (fix (scalarSize t) r).map (.writeSingle t reg)
    else if tag &&& 0xFC = 0x14 then
      (vuParse r).andThen fun start r => (vuParse r).andThen fun count r =>
        (fix (count.toNat * scalarSize t) r).map (.writeMultiple t start count)
    else if tag &&& 0xFC = 0x18 then
      (vuParse r).map (.readSingle t)
    else if tag &&& 0xFC = 0x1C then
      (vuParse r).andThen fun start r => (vuParse r).map (.readMultiple t start)
    else if tag &&& 0xFC = 0x20 then
      (vuParse r).andThen fun reg r => (fix (scalarSize t) r).map (.replySingle t reg)
    else if tag = 0x28 then
      (vuParse r).andThen fun reg r => (takeB8 r).map (.writeError reg)
    else if tag = 0x40 then
      (vuParse r).andThen fun ch r => (vuParse r).andThen fun n r => (fix n.toNat r).map (.tunnelC2s ch)
    else if tag = 0x41 then
      (vuParse r).andThen fun ch r => (vuParse r).andThen fun n r => (fix n.toNat r).map (.tunnelS2c ch)
    else .err (.unassignedTag tag)

/-- A subframe as an instruction (30_encoding.md R76). -/
def decodeSubframe (s : List Byte) : Parse Instr := (parseSubframe s).map Instr.ofSubframe

/-- A frame at the head of the wire bytes (30_encoding.md R70). The length bytes and the CRC field are kept as they
stand; whether the CRC is right is for the receiver to say (42_frame.md R150). -/
def decodeFrame : List Byte → Parse Instr
  | m0 :: m1 :: flag :: dst :: r =>
    if m0 = 0x54 ∧ m1 = 0xAB then
      (vuParse r).andThen fun n r' => (fix n.toNat r').andThen fun payload r'' =>
        (takeB8 r'').andThen fun lo r'' => (takeB8 r'').map fun hi =>
          .frame flag.msb (flag.setWidth 7) dst (r.take (r.length - r'.length)) payload (ofLe16 lo hi)
    else .err .badMagic
  | _ => .err .truncated

/-- Where an encoding is read. -/
inductive Place where
  /-- the command port (R88) -/
  | command
  /-- a trace (R89) -/
  | trace
  /-- a frame's payload (R75) -/
  | payload
  /-- the wire (R70) -/
  | wire
deriving DecidableEq, Repr

/-- The decoder of each place. -/
def decode : Place → List Byte → Parse Instr
  | .command => decodeCommand
  | .trace => decodeTrace
  | .payload => decodeSubframe
  | .wire => decodeFrame

/-- Where an instruction's encoding is read. -/
def Instr.place : Instr → Place
  | .crcInit | .crcUpdate _ | .crcRead | .vuEnc _ | .vuDrst | .vuDbyte _ => .command
  | .frameWrite _ _ _ _ | .trWdone _ | .frameRead | .trRdone _ | .trRerr => .command
  | .chRead _ _ | .chWrite _ _ | .tunnelEmit _ _ | .reset | .statRead | .faultRead => .command
  | .rxFetch | .rxByte => .trace
  | .writeSingle _ _ _ | .writeMultiple _ _ _ _ | .readSingle _ _ | .readMultiple _ _ _ => .payload
  | .replySingle _ _ _ | .writeError _ _ | .tunnelC2s _ _ | .tunnelS2c _ _ => .payload
  | .frame _ _ _ _ _ _ => .wire

/-- The bytes of a subframe with minimal varuints (30_encoding.md R76 to R84, 41_varuint.md R121). -/
def encodeSubframe : Subframe → List Byte
  | .writeSingle t reg value => tagByte (.writeSingle t reg value) :: (vuEnc reg ++ value)
  | .writeMultiple t start count values =>
    tagByte (.writeMultiple t start count values) :: (vuEnc start ++ (vuEnc count ++ values))
  | .readSingle t reg => tagByte (.readSingle t reg) :: vuEnc reg
  | .readMultiple t start count => tagByte (.readMultiple t start count) :: (vuEnc start ++ vuEnc count)
  | .replySingle t reg value => tagByte (.replySingle t reg value) :: (vuEnc reg ++ value)
  | .writeError reg code => tagByte (.writeError reg code) :: (vuEnc reg ++ [code])
  | .tunnelC2s ch data =>
    tagByte (.tunnelC2s ch data) :: (vuEnc ch ++ (vuEnc (BitVec.ofNat 32 data.length) ++ data))
  | .tunnelS2c ch data =>
    tagByte (.tunnelS2c ch data) :: (vuEnc ch ++ (vuEnc (BitVec.ofNat 32 data.length) ++ data))

/-- The source/flag byte (30_encoding.md R71). -/
def flagByte (rr : Bool) (src : BitVec 7) : Byte := BitVec.ofBool rr ++ src

/-- The bytes of a frame with the given length bytes and CRC field (30_encoding.md R70). -/
def encodeFrame (rr : Bool) (src : BitVec 7) (dst : Byte) (len payload : List Byte) (crc : Word16) : List Byte :=
  [0x54, 0xAB, flagByte rr src, dst] ++ len ++ payload ++ le16 crc

/-- The bytes of an instruction, at its place (30_encoding.md R70, R76, R89). -/
def encode : Instr → List Byte
  | .crcInit => [0x01]
  | .crcUpdate b => [0x02, b]
  | .crcRead => [0x03]
  | .vuEnc v => 0x08 :: le32 v
  | .vuDrst => [0x09]
  | .vuDbyte b => [0x0A, b]
  | .frameWrite rr src dst payload => 0x10 :: rr :: (le32 src ++ (le32 dst ++ seqBytes payload))
  | .trWdone outcome => [0x11, outByte outcome]
  | .frameRead => [0x12]
  | .trRdone chunk => 0x13 :: seqBytes chunk
  | .trRerr => [0x14]
  | .chRead ch cap => 0x20 :: (le32 ch ++ le32 cap)
  | .chWrite ch data => 0x21 :: (le32 ch ++ seqBytes data)
  | .tunnelEmit ch space => 0x22 :: (le32 ch ++ le32 space)
  | .reset => [0x30]
  | .statRead => [0x31]
  | .faultRead => [0x32]
  | .rxFetch => [0x80]
  | .rxByte => [0x81]
  | .writeSingle t reg value => encodeSubframe (.writeSingle t reg value)
  | .writeMultiple t start count values => encodeSubframe (.writeMultiple t start count values)
  | .readSingle t reg => encodeSubframe (.readSingle t reg)
  | .readMultiple t start count => encodeSubframe (.readMultiple t start count)
  | .replySingle t reg value => encodeSubframe (.replySingle t reg value)
  | .writeError reg code => encodeSubframe (.writeError reg code)
  | .tunnelC2s ch data => encodeSubframe (.tunnelC2s ch data)
  | .tunnelS2c ch data => encodeSubframe (.tunnelS2c ch data)
  | .frame rr src dst len payload crc => encodeFrame rr src dst len payload crc

/-- The table's bits as bytes in the order of the encoding, least significant byte first. -/
def tableBytesLe : Nat → Nat → List Byte
  | 0, _ => []
  | n + 1, w => BitVec.ofNat 8 w :: tableBytesLe n (w / 256)

/-- The bytes of a row of spec/opcode_table.json, every bit above `nbits` zero, up to the longest fixed part of a
record (FRAME.WRITE, 14 bytes). Rows of bytes have their first byte lowest. The one 16-bit row, Frame, is a single
16-bit word whose high byte `54` comes first on the wire (30_encoding.md R70): DESIGN CHOICE, log 10, safe. -/
def tableBytes (nbits w : Nat) : List Byte :=
  (if nbits = 16 then (tableBytesLe 2 w).reverse else tableBytesLe (nbits / 8) w) ++ List.replicate 16 0

/-- The instruction that a table row's bits spell and the bytes after it. The bits do not say at which place they are
read, so the places are asked in turn: command port and trace first (R2: the block is driven by operations), then
payload, then wire. DESIGN CHOICE, log 10, safe: no step reads an instruction this way. -/
def decodeTableBytes (bytes : List Byte) : Parse Instr :=
  match decodeTrace bytes with
  | .ok i r => .ok i r
  | .err _ =>
    match decodeSubframe bytes with
    | .ok i r => .ok i r
    | .err _ => decodeFrame bytes

/-- The instruction this decoder reads from a table word (fixed name of the host). -/
def decodeTableWord (nbits w : Nat) : Option Instr :=
  match decodeTableBytes (tableBytes nbits w) with
  | .ok i _ => some i
  | .err _ => none

end Sys2Proof
end

