-- ==== Sys2Proof/Machine/Demux.lean ====
section
/-! DEFINITION. The tunnel demultiplexer, the subframe walker and the address filter (43_demux.md R180 to R189). -/

namespace Sys2Proof.Machine

/-- `tunnel_rx` once the slot is known (43_demux.md R186): complete a parked read, queue what is left. -/
def tunnelRxSlot (i : Nat) (ch : Word32) (d : List Byte) (s : State) : State :=
  if d = [] then s
  else if (slotAt s i).prd then
    let k := min d.length (slotAt s i).prdCap.toNat
    let s' := emit (.chRdDone ch .ok (d.take k)) (setSlot i { slotAt s i with prd := false, prdCap := 0 } s)
    if d.drop k = [] then s' else queueIn i (d.drop k) s'
  else queueIn i d s

/-- `tunnel_rx(ch, d)` (43_demux.md R186). -/
def tunnelRx (ch : Word32) (d : List Byte) (s : State) : State :=
  match slotLookup ch true s with
  | (none, s') => slotExhausted s'
  | (some i, s') => tunnelRxSlot i ch d s'

/-- `handle_tunnel(tag, fields)` (43_demux.md R185): the other direction is skipped. -/
def handleTunnel (tag : Byte) (ch : Word32) (d : List Byte) (s : State) : State :=
  if tag = rxTag s.cfg then tunnelRx ch d s else s

/-- What the walk does with one subframe (43_demux.md R182, R184, R185). -/
def handleSubframe : Subframe → State → State
  | .writeSingle t reg value, s => emit (.dispatch (tagByte (.writeSingle t reg value)) reg 1 value) s
  | .writeMultiple t start count values, s =>
    emit (.dispatch (tagByte (.writeMultiple t start count values)) start count values) s
  | .readSingle t reg, s => emit (.dispatch (tagByte (.readSingle t reg)) reg 1 []) s
  | .readMultiple t start count, s => emit (.dispatch (tagByte (.readMultiple t start count)) start count []) s
  | .replySingle t reg value, s => emit (.dispatch (tagByte (.replySingle t reg value)) reg 1 value) s
  | .writeError reg code, s => emit (.dispatch (tagByte (.writeError reg code)) reg 1 [code]) s
  | .tunnelC2s ch data, s => handleTunnel 0x40 ch data s
  | .tunnelS2c ch data, s => handleTunnel 0x41 ch data s

/-- The loop of `walk` (43_demux.md R182), at most `n` rounds; it stops at the first subframe that cannot be delimited
(R187). -/
def walkFrom : Nat → List Byte → State → State
  | 0, _, s => s
  | n + 1, p, s =>
    if p = [] then s
    else
      match parseSubframe p with
      | .ok sub rest => walkFrom n rest (handleSubframe sub s)
      | .err _ => s

/-- `walk(p)` (43_demux.md R182): a subframe has at least one byte, so `len(p)` rounds are enough. -/
def walk (p : List Byte) (s : State) : State := walkFrom p.length p s

/-- The address filter's test (43_demux.md R180). -/
def isForUs (c : Config) (dst : Byte) : Bool := dst == c.ownId.setWidth 8

/-- `demux_frame` (43_demux.md R180, R181); `rr` and `src` are not used by the filter. -/
def demuxFrame (dst : Byte) (p raw : List Byte) (s : State) : State :=
  if isForUs s.cfg dst then walk p s
  else emit (.unknownFrame raw) { s with wrongId := s.wrongId + 1 }

end Sys2Proof.Machine
end

