-- ==== Sys2Proof/Machine/Receiver.lean ====
section
/-! DEFINITION. The reassembly state machine and the block's two internal steps (42_frame.md R146 to R153). -/

namespace Sys2Proof.Machine

/-- `rx_deliver()` (42_frame.md R148): complete the read with the frame just received; the demultiplexer's events come
first, in the same step. -/
def rxDeliver (s : State) : State :=
  emit (.frameRdDone .ok (some
      { rr := s.rxSrc.msb, src := s.rxSrc.setWidth 7, dst := s.rxDst, payload := s.rxPay,
        forUs := isForUs s.cfg s.rxDst }))
    (demuxFrame s.rxDst s.rxPay s.rxRaw (rxResync { s with rxArmed := false }))

/-- R150, state `HUNT0`: every byte but `MAGIC0` is discarded. -/
def rxHunt0 (b : Byte) (s : State) : State := if b = 0x54 then rxStart s else s

/-- R150, state `HUNT1`. -/
def rxHunt1 (b : Byte) (s : State) : State :=
  if b = 0xAB then { rxAcc b s with rxState := .src }
  else if b = 0x54 then rxStart s
  else rxResync s

/-- R150, state `SRC`. -/
def rxTakeSrc (b : Byte) (s : State) : State := { rxAcc b s with rxSrc := b, rxState := .dst }

/-- R150, state `DST`. -/
def rxTakeDst (b : Byte) (s : State) : State :=
  { rxAcc b s with rxDst := b, rxVacc := 0, rxVn := 0, rxState := .len }

/-- R150, state `LEN`, the length just decoded. -/
def rxGotLen (v : Word32) (s : State) : State :=
  if v.toNat > s.cfg.maxPayload then rxResync (raiseIfFatal .rxFrameOverflow s)
  else { s with rxLen := v, rxPay := [], rxVacc := 0, rxVn := 0, rxState := if v = 0 then .crc0 else .payload }

/-- R150, state `LEN`. -/
def rxTakeLen (b : Byte) (s : State) : State :=
  match vuStep s.rxVacc s.rxVn b with
  | (a, n, .more) => { rxAcc b s with rxVacc := a, rxVn := n }
  | (_, _, .err) => rxResync (rxAcc b s)
  | (_, _, .done v) => rxGotLen v (rxAcc b s)

/-- R150, state `PAYLOAD`. -/
def rxTakePay (b : Byte) (s : State) : State :=
  { rxAcc b s with
    rxPay := s.rxPay ++ [b]
    rxState := if (s.rxPay ++ [b]).length = s.rxLen.toNat then .crc0 else .payload }

/-- R150, state `CRC0`: the CRC bytes are not folded in. -/
def rxTakeCrc0 (b : Byte) (s : State) : State :=
  { s with rxRaw := s.rxRaw ++ [b], rxCrcLo := b, rxState := .crc1 }

/-- R150, state `CRC1`. -/
def rxTakeCrc1 (b : Byte) (s : State) : State :=
  if ofLe16 s.rxCrcLo b = s.rxCrc then rxDeliver { s with rxRaw := s.rxRaw ++ [b] }
  else rxResync { s with rxRaw := s.rxRaw ++ [b] }

/-- The `case rx_state of` of R150, for the byte just popped. -/
def rxTake (b : Byte) (s : State) : State :=
  match s.rxState with
  | .hunt0 => rxHunt0 b s
  | .hunt1 => rxHunt1 b s
  | .src => rxTakeSrc b s
  | .dst => rxTakeDst b s
  | .len => rxTakeLen b s
  | .payload => rxTakePay b s
  | .crc0 => rxTakeCrc0 b s
  | .crc1 => rxTakeCrc1 b s

/-- The guard of RX.FETCH (42_frame.md R149). -/
def rxFetchEnabled (s : State) : Bool := s.rxArmed && s.inFifo.isEmpty && !s.trRdPending

/-- The guard of RX.BYTE (42_frame.md R150). -/
def rxByteEnabled (s : State) : Bool := s.rxArmed && !s.inFifo.isEmpty

/-- The body of RX.BYTE (R150): pop one byte and take it. -/
def rxByteStep (s : State) : State :=
  match s.inFifo with
  | [] => s
  | b :: rest => rxTake b { s with inFifo := rest }

/-- RX.BYTE taken up to `n` times, while its guard holds. -/
def rxByteN : Nat → State → State
  | 0, s => s
  | n + 1, s => if rxByteEnabled s then rxByteN n (rxByteStep s) else s

/-- The body of RX.FETCH (R149): ask the transport for a chunk. -/
def rxFetchStep (s : State) : State := emit (.trReadReq s.cfg.rxChunkMax) { s with trRdPending := true }

/-- RX.FETCH (42_frame.md R149). With its guard false the block does not take this step: DEDUCED, log 7, safe. -/
def execRxFetch (s : State) : Host.Outcome State Fault Refusal :=
  if rxFetchEnabled s then .next (rxFetchStep s) else .refused .guardFalse

/-- RX.BYTE (42_frame.md R150). With its guard false the block does not take this step: DEDUCED, log 7, safe. -/
def execRxByte (s : State) : Host.Outcome State Fault Refusal :=
  if rxByteEnabled s then .next (rxByteStep s) else .refused .guardFalse

end Sys2Proof.Machine
end

