-- ==== Sys2Proof/Machine/System.lean ====
section
/-! DEFINITION. RESET (70_reset_and_hazards.md R270) and the status reads (60_exceptions.md R253). -/

namespace Sys2Proof.Machine

/-- RESET (R270): every element of 10_state.md R20 takes its value of R40; no event; the configuration is not changed.
What the environment still presents and what was already emitted are not state of the block (10_state.md R39): logs
2, 3, 4. -/
def execReset (s : State) : Host.Outcome State Fault Refusal :=
  .next { State.init s.cfg with port := s.port, sched := s.sched, out := s.out }

/-- STAT.READ (R253). -/
def execStatRead (s : State) : Host.Outcome State Fault Refusal := .next (emit (.statValue s.wrongId) s)

/-- FAULT.READ (R253). -/
def execFaultRead (s : State) : Host.Outcome State Fault Refusal := .next (emit (.faultValue s.fault) s)

end Sys2Proof.Machine
end

