-- ==== Sys2Proof/Machine/VaruintUnit.lean ====
section
/-! DEFINITION. The stand-alone varuint codec (41_varuint.md R124 to R126). -/

namespace Sys2Proof.Machine

/-- VU.ENC (R124): no state is written. -/
def execVuEnc (v : Word32) (s : State) : Host.Outcome State Fault Refusal := .next (emit (.vuBytes (vuEnc v)) s)

/-- VU.DRST (R125). -/
def execVuDrst (s : State) : Host.Outcome State Fault Refusal :=
  .next { s with vuAcc := 0, vuN := 0, vuSt := .idle }

/-- The first line of VU.DBYTE's pseudocode (R126): after `DONE` or `ERR` a new value starts. -/
def vuRestart (s : State) : State :=
  if s.vuSt = .done ∨ s.vuSt = .err then { s with vuAcc := 0, vuN := 0 } else s

/-- The `case r of` of VU.DBYTE's pseudocode (R126). -/
def vuTake (b : Byte) (s : State) : State :=
  match vuStep s.vuAcc s.vuN b with
  | (a, n, .more) => emit (.vuResult .more 0) { s with vuAcc := a, vuN := n, vuSt := .more }
  | (_, _, .done v) => emit (.vuResult .done v) { s with vuAcc := v, vuN := 0, vuSt := .done }
  | (_, _, .err) => emit (.vuResult .err 0) { s with vuAcc := 0, vuN := 0, vuSt := .err }

/-- VU.DBYTE (R126). -/
def execVuDbyte (b : Byte) (s : State) : Host.Outcome State Fault Refusal := .next (vuTake b (vuRestart s))

end Sys2Proof.Machine
end

