-- ==== Sys2Proof/Machine/Wire.lean ====
section
/-! DEFINITION. The wire forms of the opcode table as instructions. A subframe means what the walk does with it
(43_demux.md R182, R184, R185); a frame means what the receiver does with its bytes (42_frame.md R150). The block itself
meets them inside RX.BYTE only (00_scope.md R13): logs 8 and 9. -/

namespace Sys2Proof.Machine

/-- WriteSingle (30_encoding.md R78). -/
def execWriteSingle (t : TypeIndex) (reg : Word32) (value : List Byte) (s : State) :
    Host.Outcome State Fault Refusal := .next (handleSubframe (.writeSingle t reg value) s)

/-- WriteMultiple (R79). -/
def execWriteMultiple (t : TypeIndex) (start count : Word32) (values : List Byte) (s : State) :
    Host.Outcome State Fault Refusal := .next (handleSubframe (.writeMultiple t start count values) s)

/-- ReadSingle (R80). -/
def execReadSingle (t : TypeIndex) (reg : Word32) (s : State) : Host.Outcome State Fault Refusal :=
  .next (handleSubframe (.readSingle t reg) s)

/-- ReadMultiple (R81). -/
def execReadMultiple (t : TypeIndex) (start count : Word32) (s : State) : Host.Outcome State Fault Refusal :=
  .next (handleSubframe (.readMultiple t start count) s)

/-- ReplySingle (R82). -/
def execReplySingle (t : TypeIndex) (reg : Word32) (value : List Byte) (s : State) :
    Host.Outcome State Fault Refusal := .next (handleSubframe (.replySingle t reg value) s)

/-- WriteError (R83). -/
def execWriteError (reg : Word32) (code : Byte) (s : State) : Host.Outcome State Fault Refusal :=
  .next (handleSubframe (.writeError reg code) s)

/-- TunnelData, client to server (R84). -/
def execTunnelC2s (ch : Word32) (data : List Byte) (s : State) : Host.Outcome State Fault Refusal :=
  .next (handleSubframe (.tunnelC2s ch data) s)

/-- TunnelData, server to client (R84). -/
def execTunnelS2c (ch : Word32) (data : List Byte) (s : State) : Host.Outcome State Fault Refusal :=
  .next (handleSubframe (.tunnelS2c ch data) s)

/-- Frame (R70): the frame stands at the head of `in_fifo` and the block takes RX.BYTE on each of its bytes while a
frame read is outstanding (42_frame.md R150). Bytes that it does not take wait in `in_fifo` (R153, R279). DESIGN CHOICE,
log 9, unsafe only where `in_fifo` has no room for the frame. -/
def execFrame (rr : Bool) (src : BitVec 7) (dst : Byte) (len payload : List Byte) (crc : Word16) (s : State) :
    Host.Outcome State Fault Refusal :=
  let bytes := encodeFrame rr src dst len payload crc
  .next (rxByteN bytes.length { s with inFifo := bytes ++ s.inFifo })

end Sys2Proof.Machine
end

