-- ==== Sys2Proof/Machine/Dispatch.lean ====
section
/-! DEFINITION. One arm per constructor of `Instr`, each one direct call of its meaning. -/

namespace Sys2Proof.Machine

def exec (i : Instr) (s : State) : Host.Outcome State Fault Refusal :=
  match i with
  | .crcInit => Sys2Proof.Machine.execCrcInit s
  | .crcUpdate b => Sys2Proof.Machine.execCrcUpdate b s
  | .crcRead => Sys2Proof.Machine.execCrcRead s
  | .vuEnc v => Sys2Proof.Machine.execVuEnc v s
  | .vuDrst => Sys2Proof.Machine.execVuDrst s
  | .vuDbyte b => Sys2Proof.Machine.execVuDbyte b s
  | .frameWrite rr src dst payload => Sys2Proof.Machine.execFrameWrite rr src dst payload s
  | .trWdone outcome => Sys2Proof.Machine.execTrWdone outcome s
  | .frameRead => Sys2Proof.Machine.execFrameRead s
  | .trRdone chunk => Sys2Proof.Machine.execTrRdone chunk s
  | .trRerr => Sys2Proof.Machine.execTrRerr s
  | .chRead ch cap => Sys2Proof.Machine.execChRead ch cap s
  | .chWrite ch data => Sys2Proof.Machine.execChWrite ch data s
  | .tunnelEmit ch space => Sys2Proof.Machine.execTunnelEmit ch space s
  | .reset => Sys2Proof.Machine.execReset s
  | .statRead => Sys2Proof.Machine.execStatRead s
  | .faultRead => Sys2Proof.Machine.execFaultRead s
  | .rxFetch => Sys2Proof.Machine.execRxFetch s
  | .rxByte => Sys2Proof.Machine.execRxByte s
  | .writeSingle t reg value => Sys2Proof.Machine.execWriteSingle t reg value s
  | .writeMultiple t start count values => Sys2Proof.Machine.execWriteMultiple t start count values s
  | .readSingle t reg => Sys2Proof.Machine.execReadSingle t reg s
  | .readMultiple t start count => Sys2Proof.Machine.execReadMultiple t start count s
  | .replySingle t reg value => Sys2Proof.Machine.execReplySingle t reg value s
  | .writeError reg code => Sys2Proof.Machine.execWriteError reg code s
  | .tunnelC2s ch data => Sys2Proof.Machine.execTunnelC2s ch data s
  | .tunnelS2c ch data => Sys2Proof.Machine.execTunnelS2c ch data s
  | .frame rr src dst len payload crc => Sys2Proof.Machine.execFrame rr src dst len payload crc s

end Sys2Proof.Machine
end

