-- ==== Sys2Proof/Machine/Fetch.lean ====
section
/-! DEFINITION. Which move comes next, and how an instruction comes to be the next one. The block fetches no program
(00_scope.md R2): the environment presents command records (30_encoding.md R88), and the block takes internal steps by
itself while their guards hold (R17). -/

namespace Sys2Proof.Machine

/-- The internal step whose guard holds, if any; the guards are disjoint (00_scope.md R17). -/
def internalStep (s : State) : Option Instr :=
  if rxFetchEnabled s then some .rxFetch
  else if rxByteEnabled s then some .rxByte
  else none

/-- What the next step does. -/
inductive Move where
  /-- run an instruction, from the state left by its fetch -/
  | run (i : Instr) (s : State)
  /-- the presented record has no step (60_exceptions.md R249) -/
  | refuse (r : Refusal)
  /-- nothing is enabled: the block waits (60_exceptions.md R257, 70_reset_and_hazards.md R281) -/
  | idle (s : State)
deriving DecidableEq, Repr

/-- The environment presents the record at the head of the port (30_encoding.md R88, 60_exceptions.md R249). -/
def presentRecord (s : State) : Move :=
  match decodeCommand s.port with
  | .ok i rest => .run i { s with port := rest }
  | .err e => .refuse (.badRecord e)

/-- The block's turn: its internal step if one is enabled; otherwise the next record, if there is one. -/
def blockTurn (s : State) : Move :=
  match internalStep s with
  | some i => .run i s
  | none => if s.port = [] then .idle s else presentRecord s

/-- The environment's turn: the next record if there is one; otherwise the block's turn. -/
def envTurn (s : State) : Move := if s.port = [] then blockTurn s else presentRecord s

/-- The next move. `sched` says whose turn each step is; when it has run out every turn is the block's, so an enabled
internal step is always taken (fairness, 00_scope.md R17). Every interleaving R17 allows is the run of some `sched`.
DESIGN CHOICE, log 4. -/
def nextMove (s : State) : Move :=
  match s.sched with
  | [] => blockTurn s
  | .block :: rest => blockTurn { s with sched := rest }
  | .env :: rest => envTurn { s with sched := rest }

/-- `bytes` stand on the wire and the armed receiver has taken all of them but the last, which is the next byte of
`in_fifo`: the next step is the RX.BYTE that takes the frame's last byte (00_scope.md R13). -/
def atLastByte (bytes : List Byte) (s : State) : State :=
  let s' := rxByteN (bytes.length - 1) { rxResync s with rxArmed := true, inFifo := bytes }
  { s' with inFifo := s'.inFifo ++ s.inFifo, sched := .block :: s.sched }

/-- The frame that carries one subframe to this block, with the right checksum (42_frame.md R140). -/
def carrier (c : Config) (payload : List Byte) : List Byte :=
  let body : List Byte :=
    [0x54, 0xAB, 0x00, c.ownId.setWidth 8] ++ vuEnc (BitVec.ofNat 32 payload.length) ++ payload
  body ++ le16 (crc16 body)

/-- The state in which the guard of `i` holds: a transport answer is presented only while its request is outstanding
(60_exceptions.md R249, R250), and an internal step is taken only while its guard holds (00_scope.md R2). -/
def guardFor (i : Instr) (s : State) : State :=
  match i with
  | .trWdone _ => { s with txBusy := true }
  | .trRdone _ | .trRerr => { s with rxArmed := true, inFifo := [], trRdPending := true }
  | .rxFetch => { s with rxArmed := true, inFifo := [], trRdPending := false }
  | .rxByte => { s with rxArmed := true, inFifo := if s.inFifo = [] then [0x00] else s.inFifo }
  | .crcInit | .crcUpdate _ | .crcRead | .vuEnc _ | .vuDrst | .vuDbyte _ | .frameWrite _ _ _ _ | .frameRead => s
  | .chRead _ _ | .chWrite _ _ | .tunnelEmit _ _ | .reset | .statRead | .faultRead => s
  | .writeSingle _ _ _ | .writeMultiple _ _ _ _ | .readSingle _ _ | .readMultiple _ _ _ | .replySingle _ _ _ => s
  | .writeError _ _ | .tunnelC2s _ _ | .tunnelS2c _ _ | .frame _ _ _ _ _ _ => s

/-- Put instruction `i`, spelled by `bytes`, where the next step meets it: a record at the head of the port; an
internal step with its guard true; a subframe as the payload of a frame whose last byte is next; a frame whose last
byte is next. DESIGN CHOICE, log 11. -/
def placeInstr (i : Instr) (bytes : List Byte) (s : State) : State :=
  match i.place with
  | .command => { guardFor i s with port := bytes ++ s.port, sched := .env :: s.sched }
  | .trace => { guardFor i s with sched := .block :: s.sched }
  | .payload => atLastByte (carrier s.cfg bytes) s
  | .wire => atLastByte bytes s

/-- A table word put where the next step meets it; one that spells nothing goes to the port, where the fetch refuses
it. -/
def placeWord (nbits w : Nat) (s : State) : State :=
  match decodeTableBytes (tableBytes nbits w) with
  | .ok i rest => placeInstr i ((tableBytes nbits w).take ((tableBytes nbits w).length - rest.length)) s
  | .err _ => { s with port := tableBytes nbits w ++ s.port, sched := .env :: s.sched }

end Sys2Proof.Machine
end

