-- ==== Sys2Proof/Machine/Step.lean ====
section
/-! DEFINITION. One step of the block (00_scope.md R13, R17): three outcomes, next, fault and refused. -/

namespace Sys2Proof.Machine

/-- One step: the next move's instruction from the state its fetch left, a refused input, or a wait (log 17). -/
def step (s : State) : Host.Outcome State Fault Refusal :=
  match nextMove s with
  | .run i s' => exec i s'
  | .refuse r => .refused r
  | .idle s' => .next s'

/-- `s` with a table word where the next step meets it (fixed name of the host). -/
def State.withFetchWord (s : State) (nbits w : Nat) : State := placeWord nbits w s

end Sys2Proof.Machine
end

