-- ==== Sys2Proof/Machine/Asm.lean ====
section
/-! DEFINITION. The textual syntax of the operations (30_encoding.md R92): a mnemonic, then comma-separated operands,
each `name=value` or a bare value in the order of R89. Trace notation only: nothing in the machine reads it. -/

namespace Sys2Proof.Asm

/-- A lexical unit of a line. -/
inductive Token where
  /-- a mnemonic, an operand name or a number -/
  | word (cs : List Char)
  /-- `=` -/
  | equals
  /-- `,` -/
  | comma
  /-- `[` -/
  | open
  /-- `]` -/
  | close
  /-- a quoted ASCII string, as bytes -/
  | quoted (bytes : List Byte)
deriving DecidableEq, Repr

/-- End the word being read. -/
def endWord (cur : List Char) (ts : List Token) : List Token := if cur = [] then ts else .word cur.reverse :: ts

/-- The tokens of a line; `cur` is the word being read, backwards, and `str` the quoted bytes being read, backwards. A
`;` outside quotes starts a comment. An unclosed quote, or a quoted character that is not ASCII, spells nothing. -/
def lex (cur : List Char) (str : Option (List Byte)) : List Char → Option (List Token)
  | [] => if str = none then some (endWord cur []) else none
  | c :: cs =>
    match str with
    | some bytes =>
      if c = '"' then (lex [] none cs).map (.quoted bytes.reverse :: ·)
      else if c.toNat < 128 then lex [] (some (BitVec.ofNat 8 c.toNat :: bytes)) cs
      else none
    | none =>
      if c = ';' then some (endWord cur [])
      else if c = '"' then (lex [] (some []) cs).map (endWord cur)
      else if c = ' ' then (lex [] none cs).map (endWord cur)
      else if c = ',' then (lex [] none cs).map fun ts => endWord cur (.comma :: ts)
      else if c = '=' then (lex [] none cs).map fun ts => endWord cur (.equals :: ts)
      else if c = '[' then (lex [] none cs).map fun ts => endWord cur (.open :: ts)
      else if c = ']' then (lex [] none cs).map fun ts => endWord cur (.close :: ts)
      else lex (c :: cur) none cs

/-- The value of a digit, upper or lower case. -/
def digit (c : Char) : Option Nat :=
  if '0' ≤ c ∧ c ≤ '9' then some (c.toNat - 48)
  else if 'A' ≤ c ∧ c ≤ 'F' then some (c.toNat - 55)
  else if 'a' ≤ c ∧ c ≤ 'f' then some (c.toNat - 87)
  else none

/-- Digits in a base, after a value already read. -/
def digits (base acc : Nat) : List Char → Option Nat
  | [] => some acc
  | c :: cs =>
    match digit c with
    | some d => if d < base then digits base (acc * base + d) cs else none
    | none => none

/-- A number: decimal, or hexadecimal after `0x` (R92). -/
def number : List Char → Option Nat
  | [] => none
  | '0' :: 'x' :: c :: cs => digits 16 0 (c :: cs)
  | cs => digits 10 0 cs

/-- An operand value. -/
inductive Value where
  | num (n : Nat)
  | seq (bytes : List Byte)
  | name (cs : List Char)
deriving DecidableEq, Repr

/-- An operand: its name if one is written, and its value. -/
structure Operand where
  name : Option (List Char)
  value : Value
deriving DecidableEq, Repr

/-- The bytes of a bracketed sequence, each two hexadecimal digits, and the tokens after it. -/
def hexSeq (acc : List Byte) : List Token → Option (List Byte × List Token)
  | .close :: ts => some (acc.reverse, ts)
  | .word [a, b] :: ts =>
    match digits 16 0 [a, b] with
    | some n => hexSeq (BitVec.ofNat 8 n :: acc) ts
    | none => none
  | _ => none

/-- One value and the tokens after it. -/
def value : List Token → Option (Value × List Token)
  | .word cs :: ts =>
    match number cs with
    | some n => some (.num n, ts)
    | none => some (.name cs, ts)
  | .quoted bytes :: ts => some (.seq bytes, ts)
  | .open :: ts => (hexSeq [] ts).map fun p => (.seq p.1, p.2)
  | _ => none

/-- One operand and the tokens after it. -/
def operand : List Token → Option (Operand × List Token)
  | .word cs :: .equals :: ts => (value ts).map fun p => (⟨some cs, p.1⟩, p.2)
  | ts => (value ts).map fun p => (⟨none, p.1⟩, p.2)

/-- Comma-separated operands, at most `n`. -/
def operandsUpTo : Nat → List Token → Option (List Operand)
  | 0, _ => none
  | n + 1, ts =>
    match operand ts with
    | some (o, []) => some [o]
    | some (o, .comma :: rest) => (operandsUpTo n rest).map (o :: ·)
    | _ => none

/-- The operands of a line. -/
def operands (ts : List Token) : Option (List Operand) := if ts = [] then some [] else operandsUpTo ts.length ts

/-- Take out the operand for a field: the one written with its name, or else the first bare one. -/
def pick (field : List Char) (os : List Operand) : Option (Value × List Operand) :=
  match os.find? (fun o => o.name = some field) with
  | some o => some (o.value, os.erase o)
  | none => (os.find? (fun o => o.name = none)).map fun o => (o.value, os.erase o)

/-- The values of the fields in order, if the operands are exactly these. -/
def fields : List (List Char) → List Operand → Option (List Value)
  | [], os => if os = [] then some [] else none
  | f :: fs, os =>
    match pick f os with
    | some (v, rest) => (fields fs rest).map (v :: ·)
    | none => none

/-- An operand that fits its type (60_exceptions.md R249 b). -/
def num (w : Nat) (k : BitVec w → Option Instr) : Value → Option Instr
  | .num n => if n < 2 ^ w then k (BitVec.ofNat w n) else none
  | .seq _ => none
  | .name _ => none

/-- A `seq` operand. -/
def seq (k : List Byte → Option Instr) : Value → Option Instr
  | .seq bytes => k bytes
  | .num _ => none
  | .name _ => none

/-- An outcome, by name or by its code (30_encoding.md R90). -/
def outcome : Value → Option Instr
  | .name cs =>
    if cs = "OK".toList then some (.trWdone .ok)
    else if cs = "ERR_TRANSPORT".toList then some (.trWdone .errTransport)
    else none
  | .num n => if n = 0 then some (.trWdone .ok) else if n = 1 then some (.trWdone .errTransport) else none
  | .seq _ => none

/-- The operation of a mnemonic and its operands (30_encoding.md R89). -/
def assembleOp (m : List Char) (os : List Operand) : Option Instr :=
  let args (fs : List String) : Option (List Value) := fields (fs.map String.toList) os
  let bare (i : Instr) : Option Instr := if os = [] then some i else none
  if m = "CRC.INIT".toList then bare .crcInit
  else if m = "CRC.UPDATE".toList then
    match args ["b"] with
    | some [b] => num 8 (fun b => some (.crcUpdate b)) b
    | _ => none
  else if m = "CRC.READ".toList then bare .crcRead
  else if m = "VU.ENC".toList then
    match args ["v"] with
    | some [v] => num 32 (fun v => some (.vuEnc v)) v
    | _ => none
  else if m = "VU.DRST".toList then bare .vuDrst
  else if m = "VU.DBYTE".toList then
    match args ["b"] with
    | some [b] => num 8 (fun b => some (.vuDbyte b)) b
    | _ => none
  else if m = "FRAME.WRITE".toList then
    match args ["rr", "src", "dst", "payload"] with
    | some [rr, src, dst, p] =>
      num 8 (fun rr => num 32 (fun src => num 32 (fun dst =>
        seq (fun p => some (.frameWrite rr src dst p)) p) dst) src) rr
    | _ => none
  else if m = "TR.WDONE".toList then
    match args ["outcome"] with
    | some [o] => outcome o
    | _ => none
  else if m = "FRAME.READ".toList then bare .frameRead
  else if m = "TR.RDONE".toList then
    match args ["chunk"] with
    | some [c] => seq (fun c => some (.trRdone c)) c
    | _ => none
  else if m = "TR.RERR".toList then bare .trRerr
  else if m = "CH.READ".toList then
    match args ["ch", "cap"] with
    | some [ch, cap] => num 32 (fun ch => num 32 (fun cap => some (.chRead ch cap)) cap) ch
    | _ => none
  else if m = "CH.WRITE".toList then
    match args ["ch", "data"] with
    | some [ch, d] => num 32 (fun ch => seq (fun d => some (.chWrite ch d)) d) ch
    | _ => none
  else if m = "TUNNEL.EMIT".toList then
    match args ["ch", "space"] with
    | some [ch, sp] => num 32 (fun ch => num 32 (fun sp => some (.tunnelEmit ch sp)) sp) ch
    | _ => none
  else if m = "RESET".toList then bare .reset
  else if m = "STAT.READ".toList then bare .statRead
  else if m = "FAULT.READ".toList then bare .faultRead
  else if m = "RX.FETCH".toList then bare .rxFetch
  else if m = "RX.BYTE".toList then bare .rxByte
  else none

/-- The operation or internal step that a line of text writes (30_encoding.md R92). -/
def assemble (line : String) : Option Instr :=
  match lex [] none line.toList with
  | some (.word m :: ts) =>
    match operands ts with
    | some os => assembleOp m os
    | none => none
  | _ => none

end Sys2Proof.Asm
end

