-- ==== Sys2Proof/Machine/Pseudo.lean ====
section
/-! DEFINITION. The pseudo-operations and the trace notation of 30_encoding.md R93. -/

namespace Sys2Proof.Machine

/-- `CRC.BLOCK [b0 .. bk]` (R93). -/
def crcBlock (bs : List Byte) : List Instr := .crcInit :: bs.map .crcUpdate

/-- `VU.DECODE [b0 .. bk]` (R93). -/
def vuDecode (bs : List Byte) : List Instr := .vuDrst :: bs.map .vuDbyte

/-- What a line of text writes: `CRC.BLOCK` and `VU.DECODE` with one byte sequence are their expansions (R93), any other
line is one operation (R92). `RX.RUN` is trace notation and no operation: `rxRun` below. -/
def assembleLine (line : String) : Option (List Instr) :=
  let block (k : List Byte → List Instr) (ts : List Asm.Token) : Option (List Instr) :=
    match Asm.value ts with
    | some (.seq bytes, []) => some (k bytes)
    | _ => none
  match Asm.lex [] none line.toList with
  | some (.word m :: ts) =>
    if m = "CRC.BLOCK".toList then block crcBlock ts
    else if m = "VU.DECODE".toList then block vuDecode ts
    else (Asm.assemble line).map fun i => [i]
  | _ => none

/-- Operations one after another, up to the first that has no step. -/
def execList : List Instr → State → Host.Outcome State Fault Refusal
  | [], s => .next s
  | i :: is, s =>
    match exec i s with
    | .next s' => execList is s'
    | .fault r => .fault r
    | .refused r => .refused r

/-- `RX.RUN` (R93): internal steps until none is enabled or RX.FETCH has just emitted `TR_READ_REQ`. Every RX.BYTE takes
a byte of `in_fifo`, so `len(in_fifo)` of them are enough. -/
def rxRun (s : State) : State :=
  let s' := rxByteN s.inFifo.length s
  if rxFetchEnabled s' then rxFetchStep s' else s'

end Sys2Proof.Machine
end

