-- ==== Sys2Proof/Safety.lean ====
section
/-! DEFINITION. The terms in which statements speak of the block: the invariants of 10_state.md R22, R30, R37, R38, what
`rx_raw` and `rx_crc` hold (R23, R29, 40_crc.md R105), the drive of 42_frame.md R154, the bytes of a channel and the
runs that lose none (44_channel.md R217), and the encodings of a subframe (30_encoding.md R76, 41_varuint.md R127). -/

namespace Sys2Proof.Machine

/-! ### The invariants of 10_state.md -/

/-- One slot: its buffers are within their capacities, and R37 (b), (c), (d) hold. That `prd_cap` is 0 exactly when no
read is pending, and `pwr_data` empty exactly when no write is, is read from R186, R213, R214, R215. -/
abbrev Slot.Ok (c : Config) (sl : Slot) : Prop :=
  sl.q.length ≤ c.queueCap ∧ sl.pwrData.length ≤ c.writeMax ∧
    (sl.prd = true → sl.q = []) ∧ (sl.prd = true ↔ sl.prdCap ≠ 0) ∧
    (sl.used = false → sl = Slot.reset) ∧ (sl.pwr = true ↔ sl.pwrData ≠ [])

/-- The arena: NUM_CHANNEL_SLOTS slots (R36), each in order, and no two used slots with one id (R37 a). -/
abbrev SlotsOk (s : State) : Prop :=
  s.slots.length = s.cfg.numChannelSlots ∧ (∀ sl ∈ s.slots, sl.Ok s.cfg) ∧
    s.slots.Pairwise fun a b => a.used = true → b.used = true → a.id ≠ b.id

/-- The receive port: R22's invariant, R30's invariant, and the capacity of `in_fifo` (R30, R38). That a pending
transport read belongs to an armed receiver is read from R149 and R150. -/
abbrev PortOk (s : State) : Prop :=
  (s.rxArmed = false → s.rxState = .hunt0) ∧ (s.trRdPending = true → s.inFifo = [] ∧ s.rxArmed = true) ∧
    s.inFifo.length ≤ s.cfg.rxChunkMax

/-- The frame receiver's registers, state by state. R38 follows from it. -/
def RxOk (s : State) : Prop :=
  match s.rxState with
  | .hunt0 => s.rxRaw = [] ∧ s.rxPay = [] ∧ s.rxVacc = 0 ∧ s.rxVn = 0 ∧ s.rxLen = 0
  | .hunt1 => s.rxRaw.length = 1
  | .src => s.rxRaw.length = 2
  | .dst => s.rxRaw.length = 3
  | .len => s.rxRaw.length = 4 + s.rxVn.val
  | .payload =>
    s.rxPay.length < s.rxLen.toNat ∧ s.rxLen.toNat ≤ s.cfg.maxPayload ∧ s.rxRaw.length ≤ 9 + s.rxPay.length
  | .crc0 =>
    s.rxPay.length = s.rxLen.toNat ∧ s.rxLen.toNat ≤ s.cfg.maxPayload ∧ s.rxRaw.length ≤ 9 + s.rxPay.length
  | .crc1 =>
    s.rxPay.length = s.rxLen.toNat ∧ s.rxLen.toNat ≤ s.cfg.maxPayload ∧ s.rxRaw.length ≤ 10 + s.rxPay.length

/-- The invariant of the block: a legal configuration (00_scope.md R6) and the invariants of 10_state.md R22, R30, R37,
R38. -/
def State.Inv (s : State) : Prop := s.cfg.legal ∧ PortOk s ∧ RxOk s ∧ SlotsOk s

/-- What 10_state.md R38 says, in its own words. -/
abbrev R38 (s : State) : Prop :=
  (s.rxState = .payload ∨ s.rxState = .crc0 ∨ s.rxState = .crc1 →
      s.rxPay.length ≤ s.rxLen.toNat ∧ s.rxLen.toNat ≤ s.cfg.maxPayload) ∧
    s.rxRaw.length ≤ s.cfg.maxPayload + 11 ∧ s.inFifo.length ≤ s.cfg.rxChunkMax ∧
    (s.rxState = .hunt0 → s.rxRaw = [])

/-! ### What the receiver has taken of a frame -/

/-- The frame's head as received: magic, source/flag byte, `dest_id` (30_encoding.md R70). -/
def rxHead (s : State) : List Byte := [0x54, 0xAB, s.rxSrc, s.rxDst]

/-- `rx_raw` is the frame so far, verbatim (10_state.md R29), the length bytes spell `rx_len`, and `rx_crc` is the
checksum of the bytes before the CRC field (R23, 40_crc.md R105). -/
def RawOk (s : State) : Prop :=
  match s.rxState with
  | .hunt0 => s.rxRaw = []
  | .hunt1 => s.rxRaw = [0x54] ∧ s.rxCrc = crc16 s.rxRaw
  | .src => s.rxRaw = [0x54, 0xAB] ∧ s.rxCrc = crc16 s.rxRaw
  | .dst => s.rxRaw = [0x54, 0xAB, s.rxSrc] ∧ s.rxCrc = crc16 s.rxRaw
  | .len =>
    (∃ len, s.rxRaw = rxHead s ++ len ∧ len.length = s.rxVn.val ∧
        ∀ rest, vuParse (len ++ rest) = vuParseFrom s.rxVacc s.rxVn rest) ∧
      s.rxCrc = crc16 s.rxRaw
  | .payload | .crc0 =>
    (∃ len, s.rxRaw = rxHead s ++ len ++ s.rxPay ∧ vuParse len = .ok s.rxLen []) ∧ s.rxCrc = crc16 s.rxRaw
  | .crc1 =>
    ∃ len, s.rxRaw = rxHead s ++ len ++ s.rxPay ++ [s.rxCrcLo] ∧ vuParse len = .ok s.rxLen [] ∧
      s.rxCrc = crc16 (rxHead s ++ len ++ s.rxPay)

/-! ### Runs -/

/-- Go on after a next state. -/
def andThen (o : Host.Outcome State Fault Refusal) (k : State → Host.Outcome State Fault Refusal) :
    Host.Outcome State Fault Refusal :=
  match o with
  | .next s => k s
  | .fault r => .fault r
  | .refused r => .refused r

/-- RX.BYTE on the bytes of `in_fifo`, at most `n`, with FRAME.READ issued again after each completion (42_frame.md
R154). -/
def takeQueued : Nat → State → Host.Outcome State Fault Refusal
  | 0, s => .next s
  | n + 1, s =>
    if s.inFifo = [] then .next s
    else
      andThen (exec .rxByte s) fun t =>
        andThen (if t.rxArmed then .next t else exec .frameRead t) (takeQueued n)

/-- One transport read: the block asks, the transport answers with `chunk`, the receiver takes its bytes. -/
def feedChunk (chunk : List Byte) (s : State) : Host.Outcome State Fault Refusal :=
  andThen (exec .rxFetch s) fun s => andThen (exec (.trRdone chunk) s) (takeQueued chunk.length)

/-- A byte stream cut into chunks (42_frame.md R154). -/
def feedChunks : List (List Byte) → State → Host.Outcome State Fault Refusal
  | [], s => .next s
  | c :: cs, s => andThen (feedChunk c s) (feedChunks cs)

/-- A cutting that a transport may make: chunks of length 1 to RX_CHUNK_MAX (42_frame.md R154). -/
abbrev chunksOk (c : Config) (cs : List (List Byte)) : Prop :=
  ∀ chunk ∈ cs, 1 ≤ chunk.length ∧ chunk.length ≤ c.rxChunkMax

/-- A `TR_READ_REQ` event. -/
def isReadReq : Event → Bool
  | .trReadReq _ => true
  | _ => false

/-- A `FRAME_RD_DONE` event. -/
def isFrameRdDone : Event → Bool
  | .frameRdDone _ _ => true
  | _ => false

/-- A state as everyone but the transport sees it: without the `TR_READ_REQ` events, which say how the stream was
cut. -/
def unchunked (s : State) : State := { s with out := s.out.filter fun e => !isReadReq e }

/-! ### A channel's bytes (44_channel.md R217) -/

/-- The subframes that the walk of a payload delimits (43_demux.md R182, R187), at most `n`. -/
def subframesFrom : Nat → List Byte → List Subframe
  | 0, _ => []
  | n + 1, p =>
    match parseSubframe p with
    | .ok sub rest => sub :: subframesFrom n rest
    | .err _ => []

/-- The subframes that the walk of a payload delimits. -/
def subframes (p : List Byte) : List Subframe := subframesFrom p.length p

/-- The bytes that a subframe brings to channel `ch` in the direction the block receives (43_demux.md R185). -/
def subframeBytes (c : Config) (ch : Word32) : Subframe → List Byte
  | .tunnelC2s k d => if rxTag c = 0x40 ∧ k = ch then d else []
  | .tunnelS2c k d => if rxTag c = 0x41 ∧ k = ch then d else []
  | _ => []

/-- The bytes that a payload brings to channel `ch`, in payload order. -/
def payloadBytes (c : Config) (ch : Word32) (p : List Byte) : List Byte :=
  ((subframes p).map (subframeBytes c ch)).flatten

/-- The payload that the next RX.BYTE hands to the walk: that of the frame it delivers to this block, if it delivers
one (42_frame.md R148, 43_demux.md R180). -/
def walkedPayload (s : State) : List Byte :=
  match s.rxState, s.inFifo with
  | .crc1, b :: _ => if ofLe16 s.rxCrcLo b = s.rxCrc ∧ isForUs s.cfg s.rxDst = true then s.rxPay else []
  | _, _ => []

/-- The bytes that the next step brings to channel `ch`. -/
def stepArrival (ch : Word32) (s : State) : List Byte :=
  match nextMove s with
  | .run .rxByte s' => payloadBytes s'.cfg ch (walkedPayload s')
  | _ => []

/-- The bytes that the next `n` steps bring to channel `ch`. -/
def arrived (ch : Word32) : Nat → State → List Byte
  | 0, _ => []
  | n + 1, s =>
    stepArrival ch s ++
      match step s with
      | .next t => arrived ch n t
      | _ => []

/-- The next step is not a RESET. -/
def notReset (s : State) : Bool :=
  match nextMove s with
  | .run .reset _ => false
  | _ => true

/-- None of the next `n` steps is a RESET. -/
def resetFree : Nat → State → Bool
  | 0, _ => true
  | n + 1, s =>
    notReset s &&
      match step s with
      | .next t => resetFree n t
      | _ => true

/-- No slot is claimed by channel `ch` and none is left to claim: `slot_exhausted()` (44_channel.md R210, R211). -/
def outOfSlots (ch : Word32) (s : State) : Bool := (findSlot ch s).isNone && (freeSlot s).isNone

/-- What a parked read leaves of `d` is more than slot `i`'s queue has room for (43_demux.md R186, 44_channel.md
R212). -/
def overflowsSlot (i : Nat) (d : List Byte) (s : State) : Bool :=
  let taken := if (slotAt s i).prd then min d.length (slotAt s i).prdCap.toNat else 0
  decide (s.cfg.queueCap - (slotAt s i).q.length < d.length - taken)

/-- `tunnel_rx(ch, d)` overflows the channel's queue, or finds no slot (43_demux.md R186). -/
def tunnelOverflows (ch : Word32) (d : List Byte) (s : State) : Bool :=
  match slotLookup ch true s with
  | (some i, s') => overflowsSlot i d s'
  | (none, _) => true

/-- Handling the subframe overflows a queue, or finds no slot: TunnelData in the direction the block receives only
(43_demux.md R185). -/
def subframeOverflows : Subframe → State → Bool
  | .tunnelC2s ch d, s => decide (rxTag s.cfg = 0x40) && tunnelOverflows ch d s
  | .tunnelS2c ch d, s => decide (rxTag s.cfg = 0x41) && tunnelOverflows ch d s
  | _, _ => false

/-- Handling the subframes one after another does so somewhere. -/
def walkOverflows : List Subframe → State → Bool
  | [], _ => false
  | sub :: subs, s => subframeOverflows sub s || walkOverflows subs (handleSubframe sub s)

/-- The next step overflows a channel's queue or runs out of slots (44_channel.md R217), whatever the policy: CH.READ,
CH.WRITE and the walk claim slots, and the walk fills queues. -/
def stepOverflows (s : State) : Bool :=
  match nextMove s with
  | .run (.chRead ch _) s' => outOfSlots ch s'
  | .run (.chWrite ch _) s' => outOfSlots ch s'
  | .run .rxByte s' => walkOverflows (subframes (walkedPayload s')) s'
  | _ => false

/-- None of the next `n` steps overflows a channel's queue or runs out of slots. -/
def overflowFree : Nat → State → Bool
  | 0, _ => true
  | n + 1, s =>
    !stepOverflows s &&
      match step s with
      | .next t => overflowFree n t
      | _ => true

/-- The bytes that one event hands to the reader of channel `ch`. -/
def readBytes (ch : Word32) : Event → List Byte
  | .chRdDone k _ d => if k = ch then d else []
  | _ => []

/-- The bytes of channel `ch` that its reader has got, then those queued for it. -/
def channelBytes (ch : Word32) (s : State) : List Byte :=
  (s.out.map (readBytes ch)).flatten ++
    match findSlot ch s with
    | some i => (slotAt s i).q
    | none => []

/-- `n` steps of the machine, stopping at a refusal. -/
def runSteps : Nat → State → Host.Outcome State Fault Refusal
  | 0, s => .next s
  | n + 1, s => andThen (step s) (runSteps n)

/-! ### Misaddressed frames -/

/-- The next step is the RX.BYTE that takes the last byte `b` of a checksum-valid frame addressed to another block; `s'`
is the state from which it runs, and `rest` stays in `in_fifo` (10_state.md R32, 42_frame.md R150). -/
abbrev DeliversElsewhere (s s' : State) (b : Byte) (rest : List Byte) : Prop :=
  nextMove s = .run .rxByte s' ∧ s'.rxState = .crc1 ∧ s'.inFifo = b :: rest ∧ b ++ s'.rxCrcLo = s'.rxCrc ∧
    s'.rxDst ≠ s'.cfg.ownId.setWidth 8

/-! ### Encodings and values -/

/-- `bytes` are an encoding of `v`, minimal or not (41_varuint.md R123, R127). -/
abbrev VuSpells (v : Word32) (bytes : List Byte) : Prop := vuParse bytes = .ok v []

/-- `bytes` are an encoding of the subframe: its tag and fields as 30_encoding.md R76 to R84 lay them out, each varuint
in any form that means its value (41_varuint.md R127). -/
def Spells (sub : Subframe) (bytes : List Byte) : Prop :=
  match sub with
  | .writeSingle t reg value =>
    ∃ x, VuSpells reg x ∧ value.length = scalarSize t ∧ bytes = (0x10 + typeBits t) :: (x ++ value)
  | .writeMultiple t start count values =>
    ∃ x y, VuSpells start x ∧ VuSpells count y ∧ values.length = count.toNat * scalarSize t ∧
      bytes = (0x14 + typeBits t) :: (x ++ (y ++ values))
  | .readSingle t reg => ∃ x, VuSpells reg x ∧ bytes = (0x18 + typeBits t) :: x
  | .readMultiple t start count =>
    ∃ x y, VuSpells start x ∧ VuSpells count y ∧ bytes = (0x1C + typeBits t) :: (x ++ y)
  | .replySingle t reg value =>
    ∃ x, VuSpells reg x ∧ value.length = scalarSize t ∧ bytes = (0x20 + typeBits t) :: (x ++ value)
  | .writeError reg code => ∃ x, VuSpells reg x ∧ bytes = 0x28 :: (x ++ [code])
  | .tunnelC2s ch data =>
    ∃ x y n, VuSpells ch x ∧ VuSpells n y ∧ data.length = n.toNat ∧ bytes = 0x40 :: (x ++ (y ++ data))
  | .tunnelS2c ch data =>
    ∃ x y n, VuSpells ch x ∧ VuSpells n y ∧ data.length = n.toNat ∧ bytes = 0x41 :: (x ++ (y ++ data))

/-- The value of base-128 groups, least significant first (30_encoding.md R87). -/
def groupsValue : List Byte → Nat
  | [] => 0
  | b :: rest => b.toNat % 128 + 128 * groupsValue rest

end Sys2Proof.Machine
end

