-- ==== Sys2Proof/Certificates/Slice0/Obligations.lean ====
section
/-! DEFINITION. The statements for the provers. Every statement quantifies over the configuration (it is a field of the
state), and most over every state; where a statement needs an invariant it says so, and the invariant is a statement of
its own. An equation `exec i s = .next { s with … }` is at once the result, the completion and the frame: every field
not named keeps its value. -/

open Sys2Proof Sys2Proof.Machine

/-! ### Encodings -/

/-- Words written out from the spec's encodings (30_encoding.md R70, R76, R88, R89; 95_test_vectors.md P1 to P4, S1 to
S4) decode to what they stand for. -/
def Obligations.SpecWordsDecode : Prop :=
  decodeCommand [0x02, 0xAB] = .ok (.crcUpdate 0xAB) [] ∧
    decodeCommand [0x08, 0x2C, 0x01, 0x00, 0x00] = .ok (.vuEnc 300) [] ∧
    decodeCommand [0x20, 0x09, 0x00, 0x00, 0x00, 0x10, 0x00, 0x00, 0x00] = .ok (.chRead 9 16) [] ∧
    decodeCommand [0x13, 0x02, 0x00, 0x00, 0x00, 0x54, 0xAB] = .ok (.trRdone [0x54, 0xAB]) [] ∧
    decodeCommand [0x11, 0x00] = .ok (.trWdone .ok) [] ∧ decodeCommand [0x32] = .ok .faultRead [] ∧
    decodeTrace [0x81] = .ok .rxByte [] ∧
    decodeSubframe [0x1F, 0x0A, 0x02] = .ok (.readMultiple .float32 10 2) [] ∧
    decodeSubframe [0x40, 0x09, 0x02, 0x68, 0x69] = .ok (.tunnelC2s 9 [0x68, 0x69]) [] ∧
    decodeFrame [0x54, 0xAB, 0x81, 0x02, 0x00, 0x03, 0x28] = .ok (.frame true 1 2 [0x00] [] 0x2803) []

/-- Decode and encode agree: for every well-formed instruction of every family, at the place where it is read
(30_encoding.md R70, R76 to R84, R88 to R90). `encode` writes the varuints of a subframe in their minimal form; what
every other form decodes to is `SubframeParsesExactlyItsSpellings`. -/
def Obligations.DecodeOfEncodeIsTheInstruction : Prop :=
  ∀ (i : Instr) (rest : List Byte), i.wf = true → decode i.place (encode i ++ rest) = .ok i rest

/-- On the command port, in a trace and on the wire each byte sequence has one meaning: what decodes was exactly the
encoding of a well-formed instruction, followed by the rest. In a payload a varuint may be non-minimal (41_varuint.md
R127), so a subframe has more encodings than one; `SubframeParsesExactlyItsSpellings` says which. -/
def Obligations.DecodedBytesAreTheEncoding : Prop :=
  ∀ (p : Place) (bytes : List Byte) (i : Instr) (rest : List Byte), p ≠ .payload → decode p bytes = .ok i rest →
    i.wf = true ∧ encode i ++ rest = bytes

/-! ### The varuint codec -/

/-- `vu_parse` reads back what `vu_enc` wrote and stops at its end, and `vu_enc` writes the one minimal encoding of its
value (41_varuint.md R121 to R123). -/
def Obligations.VaruintRoundTripIsMinimal : Prop :=
  (∀ (v : Word32) (rest : List Byte), vuParse (vuEnc v ++ rest) = .ok v rest) ∧
    ∀ (v : Word32) (s : List Byte), vuParse s = .ok v [] →
      (vuEnc v).length ≤ s.length ∧ (s.length = (vuEnc v).length → s = vuEnc v)

/-- `vu_len(v)` is the number of bytes `vu_enc(v)` produces, with the thresholds of 41_varuint.md R120. -/
def Obligations.VaruintLengthThresholds : Prop :=
  ∀ v : Word32, (vuEnc v).length = vuLen v.toNat ∧
    vuLen v.toNat =
      if v.toNat ≤ 127 then 1 else if v.toNat ≤ 16383 then 2 else if v.toNat ≤ 2097151 then 3
      else if v.toNat ≤ 268435455 then 4 else 5

/-- A varuint is 1 to 5 bytes, its value is that of its base-128 groups, least significant first, and bit 7 is set in
every byte but the last (30_encoding.md R87). -/
def Obligations.VaruintValueIsBase128 : Prop :=
  ∀ (s : List Byte) (v : Word32) (rest : List Byte), vuParse s = .ok v rest →
    ∃ enc : List Byte, s = enc ++ rest ∧ 1 ≤ enc.length ∧ enc.length ≤ 5 ∧ v.toNat = groupsValue enc ∧
      ∀ (i : Nat) (b : Byte), enc[i]? = some b → (128 ≤ b.toNat ↔ i + 1 < enc.length)

/-- A fifth byte with any of bits 7 to 4 set is `BAD`; one without is the last; and fewer bytes than the value needs are
`TRUNC` (41_varuint.md R122, R123, R128). -/
def Obligations.VaruintFifthByteAndTruncation : Prop :=
  (∀ (a b c d e : Byte) (rest : List Byte), a.msb = true → b.msb = true → c.msb = true → d.msb = true →
      (16 ≤ e.toNat → vuParse (a :: b :: c :: d :: e :: rest) = .err .badVaruint) ∧
        (e.toNat < 16 → ∃ v, vuParse (a :: b :: c :: d :: e :: rest) = .ok v rest)) ∧
    ∀ s : List Byte, s.length ≤ 4 → (∀ b ∈ s, b.msb = true) → vuParse s = .err .truncated

/-- VU.ENC (41_varuint.md R124): opcode, answer, and the rule's values. -/
def Obligations.VuEncAnswersTheEncoding : Prop :=
  (∀ (v : Word32) (r : List Byte), decodeCommand (0x08 :: (le32 v ++ r)) = .ok (.vuEnc v) r) ∧
    (∀ (v : Word32) (s : State), exec (.vuEnc v) s = .next { s with out := s.out ++ [.vuBytes (vuEnc v)] }) ∧
    vuEnc 0 = [0x00] ∧ vuEnc 127 = [0x7F] ∧ vuEnc 128 = [0x80, 0x01] ∧
    vuEnc 4294967295 = [0xFF, 0xFF, 0xFF, 0xFF, 0x0F] ∧ vuEnc 300 = [0xAC, 0x02]

/-- VU.DRST (41_varuint.md R125): opcode, effect in every state, and the rule's example. -/
def Obligations.VuDrstClearsTheDecoder : Prop :=
  (∀ r : List Byte, decodeCommand (0x09 :: r) = .ok .vuDrst r) ∧
    (∀ s : State, exec .vuDrst s = .next { s with vuAcc := 0, vuN := 0, vuSt := .idle }) ∧
    ∀ s : State, ∃ t : State, execList [.vuDbyte 0x80, .vuDrst] s = .next t ∧ t.vuSt = .idle ∧ t.vuN = 0

/-- VU.DBYTE (41_varuint.md R126): opcode, the three cases, and the rule's example. -/
def Obligations.VuDbyteFeedsTheDecoder : Prop :=
  (∀ (b : Byte) (r : List Byte), decodeCommand (0x0A :: b :: r) = .ok (.vuDbyte b) r) ∧
    (∀ (b : Byte) (s : State) (acc : Word32) (n : Fin 5),
      (acc, n) = (if s.vuSt = .done ∨ s.vuSt = .err then (0, 0) else (s.vuAcc, s.vuN)) →
      exec (.vuDbyte b) s =
        match vuStep acc n b with
        | (a, m, .more) =>
          .next { s with vuAcc := a, vuN := m, vuSt := .more, out := s.out ++ [.vuResult .more 0] }
        | (_, _, .done v) =>
          .next { s with vuAcc := v, vuN := 0, vuSt := .done, out := s.out ++ [.vuResult .done v] }
        | (_, _, .err) =>
          .next { s with vuAcc := 0, vuN := 0, vuSt := .err, out := s.out ++ [.vuResult .err 0] }) ∧
    ∀ s : State, ∃ t : State, execList (vuDecode [0xAC, 0x02]) s = .next t ∧
      t.out = s.out ++ [.vuResult .more 0, .vuResult .done 300] ∧ t.vuAcc = 300

/-- VU.DECODE of what VU.ENC answers gives the value back, with one event a byte, from any state (41_varuint.md R121,
R126; 30_encoding.md R93). -/
def Obligations.VuDecodeOfVuEnc : Prop :=
  ∀ (v : Word32) (s : State), execList (vuDecode (vuEnc v)) s =
    .next { s with
      vuAcc := v, vuN := 0, vuSt := .done
      out := s.out ++ List.replicate ((vuEnc v).length - 1) (.vuResult .more 0) ++ [.vuResult .done v] }

/-! ### The CRC generator -/

/-- CRC.INIT, CRC.UPDATE and CRC.READ (40_crc.md R102 to R104): opcodes, effects in every state, corner cases and
examples. -/
def Obligations.CrcUnitOperations : Prop :=
  (∀ r : List Byte, decodeCommand (0x01 :: r) = .ok .crcInit r) ∧
    (∀ (b : Byte) (r : List Byte), decodeCommand (0x02 :: b :: r) = .ok (.crcUpdate b) r) ∧
    (∀ r : List Byte, decodeCommand (0x03 :: r) = .ok .crcRead r) ∧
    (∀ s : State, exec .crcInit s = .next { s with crcReg := 0xFFFF }) ∧
    (∀ (b : Byte) (s : State), exec (.crcUpdate b) s = .next { s with crcReg := crcStep s.crcReg b }) ∧
    (∀ s : State, exec .crcRead s = .next { s with out := s.out ++ [.crcValue s.crcReg] }) ∧
    (∀ c : Config, (State.init c).crcReg = 0xFFFF) ∧
    crcStep 0xFFFF 0x00 = 0xE1F0 ∧ crcStep 0x0000 0x00 = 0x0000 ∧ crcStep 0xFFFF 0x54 = 0xFB81 ∧
    (∀ s : State, ∃ t : State, execList (crcBlock [0x54, 0xAB, 0x01, 0x02, 0x00] ++ [.crcRead]) s = .next t ∧
      t.out = s.out ++ [.crcValue 0x2803]) ∧
    ∀ (rr : Byte) (src dst : Word32) (p : List Byte) (s : State), ∃ t : State,
      execList (crcBlock (frameBody rr src dst p)) s = .next t ∧
        frameBytes rr src dst p =
          frameBody rr src dst p ++ [t.crcReg.extractLsb' 0 8, t.crcReg.extractLsb' 8 8]

/-- `crc16` folds `crc_step` from the first byte, from CRC_INIT, with no final XOR (40_crc.md R101), and has the check
value. -/
def Obligations.Crc16FoldsFromTheFirstByte : Prop :=
  crc16 [] = 0xFFFF ∧ (∀ (s : List Byte) (b : Byte), crc16 (s ++ [b]) = crcStep (crc16 s) b) ∧
    crc16 [0x31, 0x32, 0x33, 0x34, 0x35, 0x36, 0x37, 0x38, 0x39] = 0x29B1

/-- CRC.BLOCK leaves `crc16` of its bytes in the CRC register, from any state, and nothing else changes (30_encoding.md
R93; 40_crc.md R101 to R103). -/
def Obligations.CrcBlockComputesCrc16 : Prop :=
  ∀ (bs : List Byte) (s : State), execList (crcBlock bs) s = .next { s with crcReg := crc16 bs }

/-- Any change of one byte, and so any single-bit error, in the covered span changes the CRC (40_crc.md R106). -/
def Obligations.OneByteErrorChangesTheCrc : Prop :=
  ∀ (pre suf : List Byte) (b b' : Byte), b ≠ b' → crc16 (pre ++ [b] ++ suf) ≠ crc16 (pre ++ [b'] ++ suf)

/-! ### The serializer -/

/-- FRAME.WRITE (42_frame.md R141): opcode, the accepted write, the two errors in their order of priority
(60_exceptions.md R248), and the rule's example. -/
def Obligations.FrameWriteCases : Prop :=
  (∀ (rr : Byte) (src dst : Word32) (p r : List Byte), p.length < 2 ^ 32 →
      decodeCommand (0x10 :: rr :: (le32 src ++ (le32 dst ++ (seqBytes p ++ r)))) = .ok (.frameWrite rr src dst p) r) ∧
    (∀ (rr : Byte) (src dst : Word32) (p : List Byte) (s : State), s.txBusy = false → rr.toNat ≤ 1 →
      src.toNat ≤ 127 → dst.toNat ≤ 255 → p.length ≤ s.cfg.maxPayload →
      exec (.frameWrite rr src dst p) s =
        .next { s with txBusy := true, out := s.out ++ [.trWriteReq (frameBytes rr src dst p)] }) ∧
    (∀ (rr : Byte) (src dst : Word32) (p : List Byte) (s : State), s.txBusy = true →
      exec (.frameWrite rr src dst p) s = .next { s with fault := s.fault ||| 0x08 }) ∧
    (∀ (rr : Byte) (src dst : Word32) (p : List Byte) (s : State), s.txBusy = false →
      (1 < rr.toNat ∨ 127 < src.toNat ∨ 255 < dst.toNat ∨ s.cfg.maxPayload < p.length) →
      exec (.frameWrite rr src dst p) s =
        .next { s with fault := s.fault ||| 0x10, out := s.out ++ [.frameWrDone .errInvalid] }) ∧
    frameBytes 0 1 2 [] = [0x54, 0xAB, 0x01, 0x02, 0x00, 0x03, 0x28]

/-- The serialized form of a frame has the layout of 30_encoding.md R70 and the length of 42_frame.md R140: its fields
are read back at their places, the checksum covers everything before it, and its low byte comes first. -/
def Obligations.FrameBytesLayout : Prop :=
  ∀ (rr : Byte) (src dst : Word32) (p rest : List Byte), rr.toNat ≤ 1 → src.toNat ≤ 127 → dst.toNat ≤ 255 →
    p.length < 2 ^ 32 →
    decodeFrame (frameBytes rr src dst p ++ rest) =
        .ok (.frame (decide (rr = 1)) (src.setWidth 7) (dst.setWidth 8) (vuEnc (BitVec.ofNat 32 p.length)) p
          (crc16 ((frameBytes rr src dst p).take (4 + vuLen p.length + p.length)))) rest ∧
      (frameBytes rr src dst p).length = 6 + vuLen p.length + p.length

/-- TR.WDONE (42_frame.md R142): opcode, effect while a write is outstanding, refused otherwise (60_exceptions.md R249
b, e), and the rule's example. -/
def Obligations.TrWdoneCompletesTheWrite : Prop :=
  (∀ r : List Byte, decodeCommand (0x11 :: 0x00 :: r) = .ok (.trWdone .ok) r ∧
      decodeCommand (0x11 :: 0x01 :: r) = .ok (.trWdone .errTransport) r) ∧
    (∀ (o : OutCode) (s : State), (o = .ok ∨ o = .errTransport) →
      (s.txBusy = true →
        exec (.trWdone o) s = .next { s with txBusy := false, out := s.out ++ [.frameWrDone o] }) ∧
      (s.txBusy = false → exec (.trWdone o) s = .refused .noWriteOutstanding)) ∧
    (∀ (b : Byte) (r : List Byte), 1 < b.toNat → decodeCommand (0x11 :: b :: r) = .err (.badOutcome b)) ∧
    ∀ s : State, s.txBusy = false → ∃ t : State, execList [.frameWrite 0 1 2 [], .trWdone .ok] s = .next t ∧
      t.txBusy = false ∧
      t.out = s.out ++ [.trWriteReq [0x54, 0xAB, 0x01, 0x02, 0x00, 0x03, 0x28], .frameWrDone .ok]

/-! ### The receiver's requests and the transport handshake -/

/-- FRAME.READ (42_frame.md R143): opcode, arming, what the armed receiver does next, the busy fault, and the rule's
example. -/
def Obligations.FrameReadArms : Prop :=
  (∀ r : List Byte, decodeCommand (0x12 :: r) = .ok .frameRead r) ∧
    (∀ s : State, s.rxArmed = false → ∃ t : State, t = { s with rxArmed := true } ∧ exec .frameRead s = .next t ∧
      (s.inFifo ≠ [] → internalStep t = some .rxByte) ∧
      (s.inFifo = [] → s.trRdPending = false → internalStep t = some .rxFetch)) ∧
    (∀ s : State, s.rxArmed = true → exec .frameRead s = .next { s with fault := s.fault ||| 0x04 }) ∧
    ∀ c : Config, ∃ t : State, execList [.frameRead, .rxFetch] (State.init c) = .next t ∧
      t.out = [.trReadReq c.rxChunkMax]

/-- RX.FETCH (42_frame.md R149): its effect where its guard holds, at most one transport read outstanding, and the
example of R143. Where its guard is false the block takes no such step (00_scope.md R2); that `exec` then answers
`refused guardFalse` is the model's own reading (DEDUCED: log 7), for 60_exceptions.md R249 lists inputs only. -/
def Obligations.RxFetchAsksForAChunk : Prop :=
  (∀ s : State, s.rxArmed = true → s.inFifo = [] → s.trRdPending = false →
      exec .rxFetch s = .next { s with trRdPending := true, out := s.out ++ [.trReadReq s.cfg.rxChunkMax] }) ∧
    (∀ s : State, (s.rxArmed = false ∨ s.inFifo ≠ [] ∨ s.trRdPending = true) →
      exec .rxFetch s = .refused .guardFalse) ∧
    ∀ c : Config, ∃ t : State, execList [.frameRead, .rxFetch] (State.init c) = .next t ∧
      t.out = [.trReadReq c.rxChunkMax]

/-- TR.RDONE and TR.RERR (42_frame.md R144, R145): their effects while a transport read is outstanding, refused
otherwise, and a chunk above RX_CHUNK_MAX is refused (60_exceptions.md R249 c, d). That TR.RERR leaves `in_fifo` alone
in every state is read from R145 and R146 against decision D10 (DEDUCED: log 12); the two differ only where a read is
pending and `in_fifo` is not empty, which 10_state.md R30 rules out of every run. -/
def Obligations.TransportReadAnswers : Prop :=
  (∀ (chunk : List Byte) (s : State), s.trRdPending = true → chunk.length ≤ s.cfg.rxChunkMax →
      exec (.trRdone chunk) s = .next { s with trRdPending := false, inFifo := chunk }) ∧
    (∀ (chunk : List Byte) (s : State), s.trRdPending = true → s.cfg.rxChunkMax < chunk.length →
      exec (.trRdone chunk) s = .refused .chunkTooLong) ∧
    (∀ s : State, s.trRdPending = true →
      exec .trRerr s =
        .next { s with
          trRdPending := false, rxArmed := false, rxState := .hunt0, rxRaw := [], rxPay := [], rxVacc := 0
          rxVn := 0, rxLen := 0, out := s.out ++ [.frameRdDone .errTransport none] }) ∧
    ∀ (chunk : List Byte) (s : State), s.trRdPending = false →
      exec (.trRdone chunk) s = .refused .noReadOutstanding ∧ exec .trRerr s = .refused .noReadOutstanding

/-! ### The reassembly state machine -/

/-- The transition table of 42_frame.md R151 up to the length field: `HUNT0`, `HUNT1`, `SRC`, `DST`. -/
def Obligations.RxByteTableHead : Prop :=
  ∀ (b : Byte) (rest : List Byte) (s : State), s.rxArmed = true → s.inFifo = b :: rest →
    (s.rxState = .hunt0 → b = 0x54 →
      exec .rxByte s =
        .next { s with inFifo := rest, rxState := .hunt1, rxRaw := [0x54], rxCrc := 0xFB81 }) ∧
    (s.rxState = .hunt0 → b ≠ 0x54 → exec .rxByte s = .next { s with inFifo := rest }) ∧
    (s.rxState = .hunt1 → b = 0xAB →
      exec .rxByte s =
        .next { s with
          inFifo := rest, rxState := .src, rxRaw := s.rxRaw ++ [b], rxCrc := crcStep s.rxCrc b }) ∧
    (s.rxState = .hunt1 → b = 0x54 →
      exec .rxByte s =
        .next { s with inFifo := rest, rxState := .hunt1, rxRaw := [0x54], rxCrc := 0xFB81 }) ∧
    (s.rxState = .hunt1 → b ≠ 0xAB → b ≠ 0x54 →
      exec .rxByte s =
        .next { s with
          inFifo := rest, rxState := .hunt0, rxRaw := [], rxPay := [], rxVacc := 0, rxVn := 0, rxLen := 0 }) ∧
    (s.rxState = .src →
      exec .rxByte s =
        .next { s with
          inFifo := rest, rxState := .dst, rxSrc := b, rxRaw := s.rxRaw ++ [b], rxCrc := crcStep s.rxCrc b }) ∧
    (s.rxState = .dst →
      exec .rxByte s =
        .next { s with
          inFifo := rest, rxState := .len, rxDst := b, rxVacc := 0, rxVn := 0, rxRaw := s.rxRaw ++ [b]
          rxCrc := crcStep s.rxCrc b })

/-- The transition table of 42_frame.md R151 from the length field on: `LEN`, `PAYLOAD`, `CRC0`, `CRC1` (a CRC match
ends in `HUNT0` with the read complete; what it emits is `ValidFrameIsDelivered`). -/
def Obligations.RxByteTableBody : Prop :=
  ∀ (b : Byte) (rest : List Byte) (s : State), s.rxArmed = true → s.inFifo = b :: rest →
    (∀ (a : Word32) (n : Fin 5), s.rxState = .len → vuStep s.rxVacc s.rxVn b = (a, n, .more) →
      exec .rxByte s =
        .next { s with
          inFifo := rest, rxVacc := a, rxVn := n, rxRaw := s.rxRaw ++ [b], rxCrc := crcStep s.rxCrc b }) ∧
    (s.rxState = .len → vuStep s.rxVacc s.rxVn b = (0, 0, .err) →
      exec .rxByte s =
        .next { s with
          inFifo := rest, rxState := .hunt0, rxRaw := [], rxPay := [], rxVacc := 0, rxVn := 0, rxLen := 0
          rxCrc := crcStep s.rxCrc b }) ∧
    (∀ v : Word32, s.rxState = .len → vuStep s.rxVacc s.rxVn b = (0, 0, .done v) → v.toNat ≤ s.cfg.maxPayload →
      exec .rxByte s =
        .next { s with
          inFifo := rest, rxState := if v = 0 then .crc0 else .payload, rxLen := v, rxPay := [], rxVacc := 0
          rxVn := 0, rxRaw := s.rxRaw ++ [b], rxCrc := crcStep s.rxCrc b }) ∧
    (∀ v : Word32, s.rxState = .len → vuStep s.rxVacc s.rxVn b = (0, 0, .done v) → s.cfg.maxPayload < v.toNat →
      exec .rxByte s =
        .next { s with
          inFifo := rest, rxState := .hunt0, rxRaw := [], rxPay := [], rxVacc := 0, rxVn := 0, rxLen := 0
          rxCrc := crcStep s.rxCrc b
          fault := if s.cfg.overflowPolicy = .fatal then s.fault ||| 0x80 else s.fault }) ∧
    (s.rxState = .payload →
      exec .rxByte s =
        .next { s with
          inFifo := rest, rxState := if s.rxPay.length + 1 = s.rxLen.toNat then .crc0 else .payload
          rxPay := s.rxPay ++ [b], rxRaw := s.rxRaw ++ [b], rxCrc := crcStep s.rxCrc b }) ∧
    (s.rxState = .crc0 →
      exec .rxByte s =
        .next { s with inFifo := rest, rxState := .crc1, rxCrcLo := b, rxRaw := s.rxRaw ++ [b] }) ∧
    (s.rxState = .crc1 → b ++ s.rxCrcLo ≠ s.rxCrc →
      exec .rxByte s =
        .next { s with
          inFifo := rest, rxState := .hunt0, rxRaw := [], rxPay := [], rxVacc := 0, rxVn := 0, rxLen := 0 }) ∧
    (s.rxState = .crc1 → b ++ s.rxCrcLo = s.rxCrc →
      ∃ t : State, exec .rxByte s = .next t ∧ t.rxState = .hunt0 ∧ t.rxArmed = false ∧ t.inFifo = rest)

/-- A length that is overlong, or above MAX_PAYLOAD, sends the receiver back to hunting at once, on its last byte, and
silently but for the fault bit under FATAL; the read stays outstanding (42_frame.md R150, R152, R244). -/
def Obligations.LengthErrorsResyncAtOnce : Prop :=
  ∀ (flag dst : Byte) (len rest : List Byte) (s : State), s.rxArmed = true → s.rxState = .hunt0 →
    s.inFifo = [0x54, 0xAB, flag, dst] ++ len ++ rest →
    ∃ t : State,
      t = { s with
        inFifo := rest, rxSrc := flag, rxDst := dst, rxCrc := crc16 ([0x54, 0xAB, flag, dst] ++ len)
        rxRaw := [], rxPay := [], rxVacc := 0, rxVn := 0, rxLen := 0 } ∧
      ((∃ v : Word32, vuParse len = .ok v [] ∧ s.cfg.maxPayload < v.toNat) →
        rxByteN (4 + len.length) s =
          { t with fault := if s.cfg.overflowPolicy = .fatal then s.fault ||| 0x80 else s.fault }) ∧
      (len.length = 5 → vuParse len = .err .badVaruint → rxByteN (4 + len.length) s = t)

/-- A frame, taken byte by byte by an armed receiver (log 9), with a wrong CRC field is dropped without a trace: no
event, no counter, no channel touched, and the read stays outstanding (30_encoding.md R74, 42_frame.md R152). -/
def Obligations.FrameWithWrongCrcIsDropped : Prop :=
  ∀ (rr : Bool) (src : BitVec 7) (dst : Byte) (len p : List Byte) (crc : Word16) (s : State), s.rxArmed = true →
    s.rxState = .hunt0 → (Instr.frame rr src dst len p crc).wf = true → p.length ≤ s.cfg.maxPayload →
    crc ≠ crc16 ([0x54, 0xAB, flagByte rr src, dst] ++ len ++ p) →
    exec (.frame rr src dst len p crc) s =
      .next { s with
        rxSrc := flagByte rr src, rxDst := dst, rxCrc := crc16 ([0x54, 0xAB, flagByte rr src, dst] ++ len ++ p)
        rxCrcLo := crc.setWidth 8, rxRaw := [], rxPay := [], rxVacc := 0, rxVn := 0, rxLen := 0 }

/-- A frame, taken byte by byte by an armed receiver (log 9), with one byte changed outside its magic and length fields,
and so a frame with one bit flipped there, never reaches anyone (40_crc.md R106). -/
def Obligations.FrameWithOneByteErrorIsRejected : Prop :=
  ∀ (rr rr' : Bool) (src src' : BitVec 7) (dst dst' : Byte) (len p p' : List Byte) (crc crc' : Word16) (s : State)
    (pre suf : List Byte) (b b' : Byte), s.rxArmed = true → s.rxState = .hunt0 →
    (Instr.frame rr src dst len p crc).wf = true → p.length ≤ s.cfg.maxPayload → p'.length = p.length →
    crc = crc16 ([0x54, 0xAB, flagByte rr src, dst] ++ len ++ p) →
    encodeFrame rr src dst len p crc = pre ++ [b] ++ suf → encodeFrame rr' src' dst' len p' crc' = pre ++ [b'] ++ suf →
    b ≠ b' →
    ∃ t : State, exec (.frame rr' src' dst' len p' crc') s = .next t ∧ t.rxArmed = true ∧ t.rxState = .hunt0 ∧
      t.inFifo = s.inFifo ∧ t.out = s.out ∧ t.slots = s.slots ∧ t.wrongId = s.wrongId ∧ t.fault = s.fault

/-- A frame with the right CRC field, taken byte by byte by an armed receiver (log 9), completes the outstanding read,
with its fields, on its last byte, whatever form its length has (42_frame.md R148, R155; 43_demux.md R180, R181, R188).
Addressed elsewhere, it is counted once and passed on verbatim, and no channel is touched. Addressed to this block, the
walk of its payload comes first. -/
def Obligations.ValidFrameIsDelivered : Prop :=
  ∀ (rr : Bool) (src : BitVec 7) (dst : Byte) (len p : List Byte) (crc : Word16) (s : State), s.rxArmed = true →
    s.rxState = .hunt0 → (Instr.frame rr src dst len p crc).wf = true → p.length ≤ s.cfg.maxPayload →
    crc = crc16 ([0x54, 0xAB, flagByte rr src, dst] ++ len ++ p) →
    ∃ t : State,
      t = { s with
        rxArmed := false, rxSrc := flagByte rr src, rxDst := dst, rxCrc := crc, rxCrcLo := crc.setWidth 8
        rxRaw := [], rxPay := [], rxVacc := 0, rxVn := 0, rxLen := 0 } ∧
      (dst ≠ s.cfg.ownId.setWidth 8 →
        exec (.frame rr src dst len p crc) s =
          .next { t with
            wrongId := s.wrongId + 1
            out := s.out ++ [.unknownFrame (encodeFrame rr src dst len p crc),
              .frameRdDone .ok (some { rr := rr, src := src, dst := dst, payload := p, forUs := false })] }) ∧
      (dst = s.cfg.ownId.setWidth 8 →
        exec (.frame rr src dst len p crc) s =
          .next { t with
            slots := (walk p s).slots, fault := (walk p s).fault
            out := (walk p s).out ++
              [.frameRdDone .ok (some { rr := rr, src := src, dst := dst, payload := p, forUs := true })] })

/-- What the receiver delivers was on the wire: when an RX.BYTE completes the read, the bytes it had taken since the
magic marker are exactly a frame (30_encoding.md R70), its length bytes saying the length of its payload, with the right
CRC field, and the completion carries that frame's fields (R74; 10_state.md R23, R29). That the payload is as long as
the length bytes say rests on the receiver's own invariant `RxOk`, which every step keeps (`InvariantIsKept`). -/
def Obligations.DeliveredFrameWasOnTheWire : Prop :=
  ∀ s t : State, RawOk s → exec .rxByte s = .next t → t.rxArmed = false →
    ∃ (b : Byte) (rest : List Byte) (rr : Bool) (src : BitVec 7) (dst : Byte) (len p : List Byte) (es : List Event),
      s.inFifo = b :: rest ∧ vuParse len = .ok s.rxLen [] ∧ p = s.rxPay ∧
      s.rxRaw ++ [b] =
        encodeFrame rr src dst len p (crc16 ([0x54, 0xAB, flagByte rr src, dst] ++ len ++ p)) ∧
      (RxOk s → p.length = s.rxLen.toNat ∧
        (Instr.frame rr src dst len p (crc16 ([0x54, 0xAB, flagByte rr src, dst] ++ len ++ p))).wf = true) ∧
      t.out = s.out ++ es ++
        [.frameRdDone .ok (some
          { rr := rr, src := src, dst := dst, payload := p, forUs := decide (dst = s.cfg.ownId.setWidth 8) })]

/-- `rx_raw` holds the frame so far, verbatim, and `rx_crc` its checksum (10_state.md R23, R29; 40_crc.md R105): kept by
every step. -/
def Obligations.RawBytesAndCrcAreKept : Prop := ∀ s t : State, RawOk s → step s = .next t → RawOk t

/-- Chunk-boundary independence (42_frame.md R154), as a claim about runs that end with `fault = 0` (60_exceptions.md
R243): of two cuttings of one byte stream, both run to their end, and they end in the same state and with the same
events, but for the `TR_READ_REQ` events, which say how the stream was cut. -/
def Obligations.ChunkBoundaryIndependence : Prop :=
  ∀ (s : State) (cs cs' : List (List Byte)), s.rxArmed = true → s.inFifo = [] → s.trRdPending = false →
    chunksOk s.cfg cs → chunksOk s.cfg cs' → cs.flatten = cs'.flatten →
    ∃ t t' : State, feedChunks cs s = .next t ∧ feedChunks cs' s = .next t' ∧
      (t.fault = 0 → unchunked t = unchunked t')

/-- Round trip (42_frame.md R155), as a claim about runs that end with `fault = 0` (60_exceptions.md R243): an armed
receiver in `HUNT0` that is fed `frame_bytes(rr, src, dst, p)`, in any chunking, delivers exactly `(rr, src, dst, p)`,
once, and it is the last thing it does. -/
def Obligations.RoundTripInAnyChunking : Prop :=
  ∀ (rr : Byte) (src dst : Word32) (p : List Byte) (cs : List (List Byte)) (s : State), s.cfg.legal →
    rr.toNat ≤ 1 → src.toNat ≤ 127 → dst.toNat ≤ 255 → p.length ≤ s.cfg.maxPayload →
    s.rxArmed = true → s.rxState = .hunt0 → s.inFifo = [] → s.trRdPending = false →
    chunksOk s.cfg cs → cs.flatten = frameBytes rr src dst p →
    ∃ t : State, feedChunks cs s = .next t ∧
      (t.fault = 0 → ∃ es : List Event,
        (unchunked t).out = (unchunked s).out ++ es ++
          [.frameRdDone .ok (some
            { rr := decide (rr = 1), src := src.setWidth 7, dst := dst.setWidth 8, payload := p
              forUs := decide (dst.setWidth 8 = s.cfg.ownId.setWidth 8) })] ∧
        (∀ e ∈ es, isFrameRdDone e = false) ∧ t.rxState = .hunt0 ∧ t.inFifo = [])

/-- A receiver with no read outstanding consumes nothing and requests nothing: no step but FRAME.READ and RESET changes
its registers or `in_fifo`, and no step asks the transport for bytes (10_state.md R21, 70_reset_and_hazards.md R279). -/
def Obligations.UnarmedReceiverIsStill : Prop :=
  ∀ s t : State, s.rxArmed = false → s.trRdPending = false → notReset s = true → step s = .next t →
    t.inFifo = s.inFifo ∧ t.rxState = s.rxState ∧ t.rxRaw = s.rxRaw ∧ t.rxPay = s.rxPay ∧ t.rxCrc = s.rxCrc ∧
      t.rxSrc = s.rxSrc ∧ t.rxDst = s.rxDst ∧ t.rxLen = s.rxLen ∧ t.rxVacc = s.rxVacc ∧ t.rxVn = s.rxVn ∧
      t.rxCrcLo = s.rxCrcLo ∧ t.trRdPending = false ∧
      (t.out.filter isReadReq) = (s.out.filter isReadReq)

/-! ### The address filter, the walker and the tunnel demultiplexer -/

/-- A register subframe becomes one `DISPATCH` event and changes nothing else (43_demux.md R184). That the row's meaning
is what the walk does with the subframe is the model's choice: log 8. -/
def Obligations.RegisterSubframesAreDispatched : Prop :=
  (∀ (t : TypeIndex) (reg : Word32) (v : List Byte) (s : State),
      exec (.writeSingle t reg v) s =
          .next { s with out := s.out ++ [.dispatch (0x10 + typeBits t) reg 1 v] } ∧
        exec (.replySingle t reg v) s =
          .next { s with out := s.out ++ [.dispatch (0x20 + typeBits t) reg 1 v] } ∧
        exec (.readSingle t reg) s =
          .next { s with out := s.out ++ [.dispatch (0x18 + typeBits t) reg 1 []] }) ∧
    (∀ (t : TypeIndex) (start count : Word32) (v : List Byte) (s : State),
      exec (.writeMultiple t start count v) s =
          .next { s with out := s.out ++ [.dispatch (0x14 + typeBits t) start count v] } ∧
        exec (.readMultiple t start count) s =
          .next { s with out := s.out ++ [.dispatch (0x1C + typeBits t) start count []] }) ∧
    (∀ (reg : Word32) (code : Byte) (s : State),
      exec (.writeError reg code) s = .next { s with out := s.out ++ [.dispatch 0x28 reg 1 [code]] }) ∧
    typeBits .int8 = 0 ∧ typeBits .int16 = 1 ∧ typeBits .int32 = 2 ∧ typeBits .float32 = 3

/-- The walk handles the subframes of a payload left to right, each as its row of the opcode table, and stops at the
first bytes that are none; what came before keeps its effect, and nothing after it is looked at (43_demux.md R182,
R187). This holds of every payload; and the subframes of one that is put together from encodings, each varuint minimal
or not (41_varuint.md R127), and then bytes that open no subframe, are those encoded, in their order. `encodeSubframe`
writes one such encoding. That a subframe row's meaning is what the walk does with it is the model's choice: log 8. -/
def Obligations.WalkHandlesSubframesInOrderAndStops : Prop :=
  (∀ (p : List Byte) (s : State), execList ((subframes p).map Instr.ofSubframe) s = .next (walk p s)) ∧
    (∀ (parts : List (Subframe × List Byte)) (junk : List Byte), (∀ part ∈ parts, Spells part.1 part.2) →
      (∃ e, parseSubframe junk = .err e) →
      subframes ((parts.map Prod.snd).flatten ++ junk) = parts.map Prod.fst) ∧
    ∀ sub : Subframe, sub.wf = true → Spells sub (encodeSubframe sub)

/-- Bytes at which the walk stops: an unassigned tag, any of the values of 30_encoding.md R76's last row and no other
(R85); and a WriteMultiple whose count asks for more bytes than remain, a truncation and never a wrap, whatever the
count (43_demux.md R183). -/
def Obligations.BytesThatStopTheWalk : Prop :=
  (∀ (tag : Byte) (rest : List Byte),
      (tag.toNat < 0x10 ∨ 0x24 ≤ tag.toNat ∧ tag.toNat ≤ 0x27 ∨ 0x29 ≤ tag.toNat ∧ tag.toNat ≤ 0x3F ∨
        0x42 ≤ tag.toNat) ↔ parseSubframe (tag :: rest) = .err (.unassignedTag tag)) ∧
    ∀ (t : TypeIndex) (start count : Word32) (body : List Byte), body.length < count.toNat * scalarSize t →
      parseSubframe ((0x14 + typeBits t) :: (vuEnc start ++ (vuEnc count ++ body))) = .err .truncated

/-- TunnelData in the direction the block receives, for a channel that has a slot (43_demux.md R186, 44_channel.md
R212): nothing for an empty subframe; otherwise a parked read completes with the first `prd_cap` bytes at most, and the
rest is queued as far as it fits. In the other direction it is skipped, with no event and no state change (R185). The
rows' meaning is what the walk does with them: log 8. -/
def Obligations.TunnelDataReachesItsChannel : Prop :=
  (∀ (mk : Word32 → List Byte → Instr) (ch : Word32) (d : List Byte) (i : Nat) (s : State),
    (mk = .tunnelC2s ∧ s.cfg.role = .server ∨ mk = .tunnelS2c ∧ s.cfg.role = .client) → findSlot ch s = some i →
    (d = [] → exec (mk ch d) s = .next s) ∧
    (d ≠ [] → (slotAt s i).prd = false →
      exec (mk ch d) s =
        .next { s with
          slots := s.slots.set i
            { slotAt s i with q := (slotAt s i).q ++ d.take (s.cfg.queueCap - (slotAt s i).q.length) }
          fault := if s.cfg.queueCap - (slotAt s i).q.length < d.length ∧ s.cfg.overflowPolicy = .fatal
            then s.fault ||| 0x20 else s.fault }) ∧
    (d ≠ [] → (slotAt s i).prd = true →
      ∃ k : Nat, k = min d.length (slotAt s i).prdCap.toNat ∧
        exec (mk ch d) s =
          .next { s with
            slots := s.slots.set i
              { slotAt s i with
                prd := false, prdCap := 0
                q := (slotAt s i).q ++ (d.drop k).take (s.cfg.queueCap - (slotAt s i).q.length) }
            out := s.out ++ [.chRdDone ch .ok (d.take k)]
            fault :=
              if s.cfg.queueCap - (slotAt s i).q.length < (d.drop k).length ∧ s.cfg.overflowPolicy = .fatal
              then s.fault ||| 0x20 else s.fault })) ∧
    ∀ (ch : Word32) (d : List Byte) (s : State),
      (s.cfg.role = .server → exec (.tunnelS2c ch d) s = .next s) ∧
        (s.cfg.role = .client → exec (.tunnelC2s ch d) s = .next s)

/-- Channel isolation (43_demux.md R189): whatever a payload holds, a slot that belongs to a channel for which the
payload brings no TunnelData in the block's direction is not written. -/
def Obligations.OtherChannelsAreNotTouched : Prop :=
  ∀ (p : List Byte) (s : State) (j : Nat) (sl : Slot), s.slots[j]? = some sl → sl.used = true →
    (∀ sub ∈ subframes p,
      (∀ d, s.cfg.role = .server → sub ≠ .tunnelC2s sl.id d) ∧
        (∀ d, s.cfg.role = .client → sub ≠ .tunnelS2c sl.id d)) →
    (walk p s).slots[j]? = some sl

/-- Fragmentation transparency (44_channel.md R217), as a claim about runs that end with `fault = 0` (60_exceptions.md
R243). In a run with no queue overflow and no slot exhaustion, under either policy, what a channel's reader has got,
followed by what is queued for it, is what it was before, followed by exactly the TunnelData bytes that arrived for the
channel, in order. Under FATAL, where an overflow or an exhaustion sets a fault bit, a run that ends with `fault = 0`
is such a run. -/
def Obligations.FragmentationTransparency : Prop :=
  (∀ (ch : Word32) (n : Nat) (s t : State), s.Inv → resetFree n s = true → overflowFree n s = true →
      runSteps n s = .next t → t.fault = 0 → channelBytes ch t = channelBytes ch s ++ arrived ch n s) ∧
    ∀ (n : Nat) (s t : State), s.Inv → s.cfg.overflowPolicy = .fatal → resetFree n s = true →
      runSteps n s = .next t → t.fault = 0 → overflowFree n s = true

/-- A TunnelData subframe that TUNNEL.EMIT builds is read by a peer of the other role as the same bytes for the same
channel, and by a block of the same role as nothing (44_channel.md R215, 43_demux.md R185). -/
def Obligations.EmittedSubframeReachesThePeer : Prop :=
  ∀ (c c' : Config) (ch : Word32) (d rest : List Byte), d.length < 2 ^ 32 →
    ∃ sub : Subframe, parseSubframe (emitSub c ch d ++ rest) = .ok sub rest ∧
      (c'.role ≠ c.role → subframeBytes c' ch sub = d) ∧ (c'.role = c.role → subframeBytes c' ch sub = [])

/-! ### The channel operations -/

/-- CH.READ on a channel that has a slot (44_channel.md R213), in the order of its checks (60_exceptions.md R248): busy;
`cap = 0`; bytes queued, served at once up to `cap`; otherwise parked. -/
def Obligations.ChReadCases : Prop :=
  ∀ (ch cap : Word32) (i : Nat) (s : State), findSlot ch s = some i →
    ((slotAt s i).prd = true → exec (.chRead ch cap) s = .next { s with fault := s.fault ||| 0x01 }) ∧
    ((slotAt s i).prd = false → cap = 0 →
      exec (.chRead ch cap) s = .next { s with out := s.out ++ [.chRdDone ch .ok []] }) ∧
    ((slotAt s i).prd = false → cap ≠ 0 → (slotAt s i).q ≠ [] →
      exec (.chRead ch cap) s =
        .next { s with
          slots := s.slots.set i { slotAt s i with q := (slotAt s i).q.drop cap.toNat }
          out := s.out ++ [.chRdDone ch .ok ((slotAt s i).q.take cap.toNat)] }) ∧
    ((slotAt s i).prd = false → cap ≠ 0 → (slotAt s i).q = [] →
      exec (.chRead ch cap) s =
        .next { s with slots := s.slots.set i { slotAt s i with prd := true, prdCap := cap } })

/-- CH.WRITE on a channel that has a slot (44_channel.md R214), in the order of its checks: busy; empty data; otherwise
parked, at most WRITE_MAX bytes, copied at issue. -/
def Obligations.ChWriteCases : Prop :=
  ∀ (ch : Word32) (data : List Byte) (i : Nat) (s : State), findSlot ch s = some i →
    ((slotAt s i).pwr = true → exec (.chWrite ch data) s = .next { s with fault := s.fault ||| 0x02 }) ∧
    ((slotAt s i).pwr = false → data = [] →
      exec (.chWrite ch data) s = .next { s with out := s.out ++ [.chWrDone ch .ok 0] }) ∧
    ((slotAt s i).pwr = false → data ≠ [] →
      exec (.chWrite ch data) s =
        .next { s with
          slots := s.slots.set i { slotAt s i with pwr := true, pwrData := data.take s.cfg.writeMax } })

/-- TUNNEL.EMIT (44_channel.md R215): nothing without a pending write or without room; otherwise one subframe with as
many bytes as fit, and the write completes with that count, in one step, `EMIT_DATA` first. It claims no slot. -/
def Obligations.TunnelEmitCases : Prop :=
  ∀ (ch space : Word32) (s : State),
    (findSlot ch s = none →
      exec (.tunnelEmit ch space) s = .next { s with out := s.out ++ [.emitData ch []] }) ∧
    ∀ i : Nat, findSlot ch s = some i →
      (((slotAt s i).pwr = false ∨ emitSize ch (slotAt s i).pwrData.length space.toNat = 0) →
        exec (.tunnelEmit ch space) s = .next { s with out := s.out ++ [.emitData ch []] }) ∧
      ∀ n : Nat, (slotAt s i).pwr = true → n = emitSize ch (slotAt s i).pwrData.length space.toNat → n ≠ 0 →
        exec (.tunnelEmit ch space) s =
          .next { s with
            slots := s.slots.set i { slotAt s i with pwr := false, pwrData := [] }
            out := s.out ++
              [.emitData ch ([if s.cfg.role = .server then 0x41 else 0x40] ++ vuEnc ch ++
                  vuEnc (BitVec.ofNat 32 n) ++ (slotAt s i).pwrData.take n),
                .chWrDone ch .ok n] }

/-- `emit_size` (44_channel.md R216), with the rule's values. -/
def Obligations.EmitSizeIsTheLargest : Prop :=
  (∀ (ch : Word32) (m space : Nat),
      emitSize ch m space ≤ m ∧
        (1 + vuLen ch.toNat + vuLen (emitSize ch m space) + emitSize ch m space ≤ space ∨ emitSize ch m space = 0) ∧
        ∀ n : Nat, n ≤ m → 1 + vuLen ch.toNat + vuLen n + n ≤ space → n ≤ emitSize ch m space) ∧
    emitSize 9 5 127 = 5 ∧ emitSize 9 5 5 = 2 ∧ emitSize 9 5 3 = 0 ∧ emitSize 9 200 130 = 127 ∧
    emitSize 9 200 131 = 127

/-- First reference (44_channel.md R210): a channel with no slot claims the least free one, and the operation goes on as
on a channel that has it. That the claimed slot keeps its other fields, whatever they are, is read from R210 (DEDUCED:
log 14); 10_state.md R37 (c) has them at their reset values in every run. That a TunnelData row means what the walk does
with that subframe (43_demux.md R186) is the model's choice: log 8. -/
def Obligations.FirstReferenceClaimsTheLeastFreeSlot : Prop :=
  ∀ (ch cap : Word32) (d : List Byte) (i : Nat) (s : State), findSlot ch s = none → freeSlot s = some i →
    ∃ t : State, t = { s with slots := s.slots.set i { slotAt s i with used := true, id := ch } } ∧
      i < s.slots.length ∧ (∀ j < i, (slotAt s j).used = true) ∧ findSlot ch t = some i ∧
      exec (.chRead ch cap) s = exec (.chRead ch cap) t ∧ exec (.chWrite ch d) s = exec (.chWrite ch d) t ∧
      (s.cfg.role = .server → exec (.tunnelC2s ch d) s = exec (.tunnelC2s ch d) t) ∧
      (s.cfg.role = .client → exec (.tunnelS2c ch d) s = exec (.tunnelS2c ch d) t)

/-- No slot left (44_channel.md R211, R213, R214; 43_demux.md R186): a request completes with `ERR_NO_SLOT`, incoming
data is dropped, and under FATAL the fault is recorded. That a TunnelData row means what the walk does with that
subframe is the model's choice: log 8. -/
def Obligations.NoSlotLeft : Prop :=
  ∀ (ch cap : Word32) (d : List Byte) (s : State) (f : BitVec 8), findSlot ch s = none → freeSlot s = none →
    f = (if s.cfg.overflowPolicy = .fatal then s.fault ||| 0x40 else s.fault) →
    exec (.chRead ch cap) s = .next { s with fault := f, out := s.out ++ [.chRdDone ch .errNoSlot []] } ∧
      exec (.chWrite ch d) s = .next { s with fault := f, out := s.out ++ [.chWrDone ch .errNoSlot 0] } ∧
      (s.cfg.role = .server → exec (.tunnelC2s ch d) s = .next { s with fault := f }) ∧
      (s.cfg.role = .client → exec (.tunnelS2c ch d) s = .next { s with fault := f })

/-! ### Reset, statistics and faults -/

/-- RESET (70_reset_and_hazards.md R270; the values of 10_state.md R40), from every state: every element at its reset
value, no event, the configuration kept; and the transport's answers to requests issued before it are refused. -/
def Obligations.ResetRestoresEveryElement : Prop :=
  (∀ r : List Byte, decodeCommand (0x30 :: r) = .ok .reset r) ∧
    ∀ s : State, ∃ t : State, exec .reset s = .next t ∧ t.rxArmed = false ∧ t.rxState = .hunt0 ∧ t.rxCrc = 0xFFFF ∧
      t.rxSrc = 0 ∧ t.rxDst = 0 ∧ t.rxCrcLo = 0 ∧ t.rxVacc = 0 ∧ t.rxVn = 0 ∧ t.rxLen = 0 ∧ t.rxPay = [] ∧
      t.rxRaw = [] ∧ t.inFifo = [] ∧ t.trRdPending = false ∧ t.txBusy = false ∧ t.wrongId = 0 ∧ t.fault = 0 ∧
      t.crcReg = 0xFFFF ∧ t.vuAcc = 0 ∧ t.vuN = 0 ∧ t.vuSt = .idle ∧
      t.slots = List.replicate s.cfg.numChannelSlots
        { used := false, id := 0, q := [], prd := false, prdCap := 0, pwr := false, pwrData := [] } ∧
      t.cfg = s.cfg ∧ t.out = s.out ∧ (∀ chunk, exec (.trRdone chunk) t = .refused .noReadOutstanding) ∧
      exec .trRerr t = .refused .noReadOutstanding ∧ exec (.trWdone .ok) t = .refused .noWriteOutstanding ∧
      exec (.trWdone .errTransport) t = .refused .noWriteOutstanding

/-- STAT.READ and FAULT.READ (60_exceptions.md R253): opcodes, answers, no side effect, the counter's wrap, and the
rule's example, its frame fed to the receiver byte by byte. -/
def Obligations.StatusReadsAnswerAndClearNothing : Prop :=
  (∀ r : List Byte, decodeCommand (0x31 :: r) = .ok .statRead r) ∧
    (∀ r : List Byte, decodeCommand (0x32 :: r) = .ok .faultRead r) ∧
    (∀ s : State, exec .statRead s = .next { s with out := s.out ++ [.statValue s.wrongId] }) ∧
    (∀ s : State, exec .faultRead s = .next { s with out := s.out ++ [.faultValue s.fault] }) ∧
    (∀ (raw p : List Byte) (dst : Byte) (s : State), dst ≠ s.cfg.ownId.setWidth 8 → s.wrongId = 4294967295 →
      (demuxFrame dst p raw s).wrongId = 0) ∧
    ∀ c : Config, c.legal → c.ownId ≠ 2 → ∃ t : State,
      execList (.frameRead :: (([0x54, 0xAB, 0x01, 0x02, 0x00, 0x03, 0x28] : List Byte).flatMap fun b =>
          [.rxFetch, .trRdone [b], .rxByte]) ++ [.statRead]) (State.init c) = .next t ∧
        t.out.getLast? = some (.statValue 1)

/-- A fault bit, once set, stays set until RESET (10_state.md R33, 60_exceptions.md R243). -/
def Obligations.FaultBitsAreSticky : Prop :=
  ∀ s t : State, notReset s = true → step s = .next t → s.fault &&& t.fault = s.fault

/-- The configuration parameters never change while the block runs (00_scope.md R6). -/
def Obligations.ConfigurationNeverChanges : Prop := ∀ s t : State, step s = .next t → t.cfg = s.cfg

/-- `wrong_id` is written by RESET and by the address filter only, which counts the checksum-valid frames addressed to
another block (10_state.md R32, 43_demux.md R181): any other step but the one that takes such a frame's last byte leaves
it alone, and that step adds one to it, passes the frame on verbatim, completes the read with the frame's fields, and
touches no slot. -/
def Obligations.WrongIdIsWrittenByTheFilterOnly : Prop :=
  (∀ s t : State, notReset s = true → step s = .next t →
      t.wrongId = s.wrongId ∨ ∃ (s' : State) (b : Byte) (rest : List Byte), DeliversElsewhere s s' b rest) ∧
    ∀ (s s' : State) (b : Byte) (rest : List Byte), DeliversElsewhere s s' b rest →
      s' = { s with sched := s'.sched } ∧
        step s =
          .next { s' with
            inFifo := rest, rxArmed := false, rxState := .hunt0, rxRaw := [], rxPay := [], rxVacc := 0, rxVn := 0
            rxLen := 0, wrongId := s.wrongId + 1
            out := s.out ++ [.unknownFrame (s'.rxRaw ++ [b]),
              .frameRdDone .ok (some
                { rr := s'.rxSrc.msb, src := s'.rxSrc.setWidth 7, dst := s'.rxDst, payload := s'.rxPay
                  forUs := false })] }

/-- The stand-alone CRC register and the receiver do not disturb each other (10_state.md R34): only CRC.INIT, CRC.UPDATE
and RESET write `crc_reg`, and of these only RESET touches the receiver. -/
def Obligations.CrcUnitAndReceiverAreSeparate : Prop :=
  ∀ (i : Instr) (s t : State), exec i s = .next t →
    (i ≠ .crcInit → (∀ b, i ≠ .crcUpdate b) → i ≠ .reset → t.crcReg = s.crcReg) ∧
      ((i = .crcInit ∨ ∃ b, i = .crcUpdate b) → { t with crcReg := s.crcReg } = s)

/-- Events are only ever appended: no instruction takes one back or puts one before an earlier one (20_memory.md R62,
60_exceptions.md R241). -/
def Obligations.EventsAreOnlyAppended : Prop :=
  ∀ (i : Instr) (s t : State), exec i s = .next t → ∃ es : List Event, t.out = s.out ++ es

/-! ### Refusals and steps -/

/-- The inputs that have no step are those of 60_exceptions.md R249, and an internal step whose guard is false; every
other instruction runs, in every state. An opcode that 30_encoding.md R89 does not list for the port, 0x80 and 0x81
among them, is refused, and the step that would present it is refused (R249 a). That a refusal ends the run, and that
the block never takes an internal step whose guard is false, are DEDUCED: logs 5 and 7. -/
def Obligations.RefusedExactlyWhereTheSpecSays : Prop :=
  (∀ (i : Instr) (s : State),
    (¬ ∃ t : State, exec i s = .next t) ↔
      (∃ o, i = .trWdone o ∧ (s.txBusy = false ∨ o = .errInvalid ∨ o = .errNoSlot)) ∨
        (∃ chunk, i = .trRdone chunk ∧ (s.trRdPending = false ∨ s.cfg.rxChunkMax < chunk.length)) ∨
        (i = .trRerr ∧ s.trRdPending = false) ∨
        (i = .rxFetch ∧ (s.rxArmed = false ∨ s.inFifo ≠ [] ∨ s.trRdPending = true)) ∨
        (i = .rxByte ∧ (s.rxArmed = false ∨ s.inFifo = []))) ∧
    ∀ (op : Byte) (r : List Byte),
      op ∉ ([0x01, 0x02, 0x03, 0x08, 0x09, 0x0A, 0x10, 0x11, 0x12, 0x13, 0x14, 0x20, 0x21, 0x22, 0x30, 0x31, 0x32] :
        List Byte) →
      decodeCommand (op :: r) = .err (.unknownOpcode op) ∧
        ∀ (s : State) (sched : List Turn),
          step { s with port := op :: r, sched := .env :: sched } = .refused (.badRecord (.unknownOpcode op))

/-- A step runs the decoded instruction: on the environment's turn, or when no internal step is enabled, the record at
the head of the port is taken off it and `step` is `exec` of what it decodes to. That the port and the turns are fields
of the state is the model's choice: logs 3 and 4. -/
def Obligations.StepRunsTheDecodedRecord : Prop :=
  ∀ (i : Instr) (rest : List Byte) (s : State), decodeCommand s.port = .ok i rest →
    (∀ sched, s.sched = .env :: sched → step s = exec i { s with port := rest, sched := sched }) ∧
      (∀ sched, s.sched = .block :: sched → internalStep s = none →
        step s = exec i { s with port := rest, sched := sched }) ∧
      (s.sched = [] → internalStep s = none → step s = exec i { s with port := rest })

/-- The block takes an enabled internal step, RX.FETCH or RX.BYTE as `in_fifo` is empty or not, on each of its turns and
on every turn after the schedule has run out. 00_scope.md R17 asks only that a step whose guard holds continuously be
taken eventually. That the field `sched` says whose turn it is, and that the block moves first once it is empty, is the
model's choice of how to be fair (DESIGN CHOICE: log 4), and no rule of the spec. With nothing enabled and nothing
presented, a step of the model leaves the state as it is: 60_exceptions.md R257 says that the state survives the wait
unchanged, and that the wait is a step at all, with a next state, is the model's own reading (DEDUCED: log 17). -/
def Obligations.StepTakesEnabledInternalSteps : Prop :=
  (∀ s : State, s.sched = [] →
      (s.rxArmed = true → s.inFifo = [] → s.trRdPending = false → step s = exec .rxFetch s) ∧
        (s.rxArmed = true → s.inFifo ≠ [] → step s = exec .rxByte s)) ∧
    (∀ (s : State) (sched : List Turn), s.sched = .block :: sched →
      (s.rxArmed = true → s.inFifo = [] → s.trRdPending = false → step s = exec .rxFetch { s with sched := sched }) ∧
        (s.rxArmed = true → s.inFifo ≠ [] → step s = exec .rxByte { s with sched := sched })) ∧
    ∀ s : State, s.sched = [] → s.port = [] → internalStep s = none → step s = .next s

/-- The meaning of a frame (the model's choice: log 9) is that of its bytes: `exec` of a frame is one RX.BYTE after
another on the frame's bytes at the head of `in_fifo`, and on an armed receiver in `HUNT0` with the right CRC each of
these steps is enabled (42_frame.md R150, 70_reset_and_hazards.md R282). -/
def Obligations.FrameTakesOneRxByteStepPerByte : Prop :=
  ∀ (rr : Bool) (src : BitVec 7) (dst : Byte) (len p : List Byte) (s : State) (bytes : List Byte),
    s.rxArmed = true → s.rxState = .hunt0 → p.length ≤ s.cfg.maxPayload →
    bytes = encodeFrame rr src dst len p (crc16 ([0x54, 0xAB, flagByte rr src, dst] ++ len ++ p)) →
    (Instr.frame rr src dst len p (crc16 ([0x54, 0xAB, flagByte rr src, dst] ++ len ++ p))).wf = true →
    execList (List.replicate bytes.length .rxByte) { s with inFifo := bytes ++ s.inFifo } =
      exec (.frame rr src dst len p (crc16 ([0x54, 0xAB, flagByte rr src, dst] ++ len ++ p))) s

/-! ### Invariants -/

/-- The invariants of 10_state.md R22, R30, R37, R38 (and R6's bounds) are kept by every step. -/
def Obligations.InvariantIsKept : Prop := ∀ s t : State, s.Inv → step s = .next t → t.Inv

/-- A block just constructed with a legal configuration meets both invariants (70_reset_and_hazards.md R271), and so does
`State.reset`, which is built with TC (the model's choice: log 1). -/
def Obligations.ConstructionMeetsTheInvariants : Prop :=
  (∀ c : Config, c.legal → (State.init c).Inv ∧ RawOk (State.init c)) ∧ State.reset.Inv

/-- In every state reachable from reset, whatever is presented and whenever, 10_state.md R37 (a) to (d) and R38 hold, as
a claim about runs that end with `fault = 0` (60_exceptions.md R243). (That one step keeps the invariants in a faulted
state too is `InvariantIsKept`, which is about no run.) How inputs are presented is the model's choice: logs 3 and
4. -/
def Obligations.ReachableStatesMeetTheStateInvariants : Prop :=
  ∀ (c : Config) (port : List Byte) (sched : List Turn) (n : Nat) (t : State), c.legal →
    runSteps n { State.init c with port := port, sched := sched } = .next t → t.fault = 0 →
    (t.slots.Pairwise fun a b => a.used = true → b.used = true → a.id ≠ b.id) ∧
      (∀ sl ∈ t.slots, (sl.prd = true → sl.q = []) ∧ (sl.used = false → sl = Slot.reset) ∧
        (sl.pwr = true → 1 ≤ sl.pwrData.length ∧ sl.pwrData.length ≤ c.writeMax)) ∧
      R38 t

/-! ### The encodings of a subframe -/

/-- What `parse_subframe` reads: exactly the encodings of 30_encoding.md R76 to R84, each varuint field being any bytes
that mean its value, minimal or not (41_varuint.md R127, 43_demux.md R183). It answers a subframe and the bytes after it
just where the bytes open with an encoding of that subframe; the payload decoder answers that subframe's row; and what
has an encoding is well-formed. Vector D13 of 95_test_vectors.md is a non-minimal one. -/
def Obligations.SubframeParsesExactlyItsSpellings : Prop :=
  (∀ (bytes : List Byte) (sub : Subframe) (rest : List Byte),
      parseSubframe bytes = .ok sub rest ↔ ∃ enc : List Byte, Spells sub enc ∧ bytes = enc ++ rest) ∧
    (∀ (bytes : List Byte) (i : Instr) (rest : List Byte),
      decode .payload bytes = .ok i rest ↔
        ∃ (sub : Subframe) (enc : List Byte), i = .ofSubframe sub ∧ Spells sub enc ∧ bytes = enc ++ rest) ∧
    (∀ (sub : Subframe) (enc : List Byte), Spells sub enc → sub.wf = true) ∧
    Spells (.readSingle .int8 1) [0x18, 0x81, 0x00]
end

