-- ==== Sys2Proof/Laws/State.lean ====
section
/-! SUPPORT. One lemma per field per update of State, so that no later proof unfolds a record update. -/

namespace Sys2Proof.Machine

/-! ### `emit` -/

@[simp] theorem emit_rxArmed (e : Event) (s : State) : (emit e s).rxArmed = s.rxArmed := rfl
@[simp] theorem emit_rxState (e : Event) (s : State) : (emit e s).rxState = s.rxState := rfl
@[simp] theorem emit_rxCrc (e : Event) (s : State) : (emit e s).rxCrc = s.rxCrc := rfl
@[simp] theorem emit_rxSrc (e : Event) (s : State) : (emit e s).rxSrc = s.rxSrc := rfl
@[simp] theorem emit_rxDst (e : Event) (s : State) : (emit e s).rxDst = s.rxDst := rfl
@[simp] theorem emit_rxVacc (e : Event) (s : State) : (emit e s).rxVacc = s.rxVacc := rfl
@[simp] theorem emit_rxVn (e : Event) (s : State) : (emit e s).rxVn = s.rxVn := rfl
@[simp] theorem emit_rxLen (e : Event) (s : State) : (emit e s).rxLen = s.rxLen := rfl
@[simp] theorem emit_rxPay (e : Event) (s : State) : (emit e s).rxPay = s.rxPay := rfl
@[simp] theorem emit_rxCrcLo (e : Event) (s : State) : (emit e s).rxCrcLo = s.rxCrcLo := rfl
@[simp] theorem emit_rxRaw (e : Event) (s : State) : (emit e s).rxRaw = s.rxRaw := rfl
@[simp] theorem emit_inFifo (e : Event) (s : State) : (emit e s).inFifo = s.inFifo := rfl
@[simp] theorem emit_trRdPending (e : Event) (s : State) : (emit e s).trRdPending = s.trRdPending := rfl
@[simp] theorem emit_txBusy (e : Event) (s : State) : (emit e s).txBusy = s.txBusy := rfl
@[simp] theorem emit_wrongId (e : Event) (s : State) : (emit e s).wrongId = s.wrongId := rfl
@[simp] theorem emit_fault (e : Event) (s : State) : (emit e s).fault = s.fault := rfl
@[simp] theorem emit_crcReg (e : Event) (s : State) : (emit e s).crcReg = s.crcReg := rfl
@[simp] theorem emit_vuAcc (e : Event) (s : State) : (emit e s).vuAcc = s.vuAcc := rfl
@[simp] theorem emit_vuN (e : Event) (s : State) : (emit e s).vuN = s.vuN := rfl
@[simp] theorem emit_vuSt (e : Event) (s : State) : (emit e s).vuSt = s.vuSt := rfl
@[simp] theorem emit_slots (e : Event) (s : State) : (emit e s).slots = s.slots := rfl
@[simp] theorem emit_cfg (e : Event) (s : State) : (emit e s).cfg = s.cfg := rfl
@[simp] theorem emit_port (e : Event) (s : State) : (emit e s).port = s.port := rfl
@[simp] theorem emit_sched (e : Event) (s : State) : (emit e s).sched = s.sched := rfl
@[simp] theorem emit_out (e : Event) (s : State) : (emit e s).out = s.out ++ [e] := rfl

/-! ### `raiseFault` -/

@[simp] theorem raiseFault_rxArmed (b : FaultBit) (s : State) : (raiseFault b s).rxArmed = s.rxArmed := rfl
@[simp] theorem raiseFault_rxState (b : FaultBit) (s : State) : (raiseFault b s).rxState = s.rxState := rfl
@[simp] theorem raiseFault_rxCrc (b : FaultBit) (s : State) : (raiseFault b s).rxCrc = s.rxCrc := rfl
@[simp] theorem raiseFault_rxSrc (b : FaultBit) (s : State) : (raiseFault b s).rxSrc = s.rxSrc := rfl
@[simp] theorem raiseFault_rxDst (b : FaultBit) (s : State) : (raiseFault b s).rxDst = s.rxDst := rfl
@[simp] theorem raiseFault_rxVacc (b : FaultBit) (s : State) : (raiseFault b s).rxVacc = s.rxVacc := rfl
@[simp] theorem raiseFault_rxVn (b : FaultBit) (s : State) : (raiseFault b s).rxVn = s.rxVn := rfl
@[simp] theorem raiseFault_rxLen (b : FaultBit) (s : State) : (raiseFault b s).rxLen = s.rxLen := rfl
@[simp] theorem raiseFault_rxPay (b : FaultBit) (s : State) : (raiseFault b s).rxPay = s.rxPay := rfl
@[simp] theorem raiseFault_rxCrcLo (b : FaultBit) (s : State) : (raiseFault b s).rxCrcLo = s.rxCrcLo := rfl
@[simp] theorem raiseFault_rxRaw (b : FaultBit) (s : State) : (raiseFault b s).rxRaw = s.rxRaw := rfl
@[simp] theorem raiseFault_inFifo (b : FaultBit) (s : State) : (raiseFault b s).inFifo = s.inFifo := rfl
@[simp] theorem raiseFault_trRdPending (b : FaultBit) (s : State) : (raiseFault b s).trRdPending = s.trRdPending :=
  rfl
@[simp] theorem raiseFault_txBusy (b : FaultBit) (s : State) : (raiseFault b s).txBusy = s.txBusy := rfl
@[simp] theorem raiseFault_wrongId (b : FaultBit) (s : State) : (raiseFault b s).wrongId = s.wrongId := rfl
@[simp] theorem raiseFault_fault (b : FaultBit) (s : State) : (raiseFault b s).fault = s.fault ||| faultMask b := rfl
@[simp] theorem raiseFault_crcReg (b : FaultBit) (s : State) : (raiseFault b s).crcReg = s.crcReg := rfl
@[simp] theorem raiseFault_vuAcc (b : FaultBit) (s : State) : (raiseFault b s).vuAcc = s.vuAcc := rfl
@[simp] theorem raiseFault_vuN (b : FaultBit) (s : State) : (raiseFault b s).vuN = s.vuN := rfl
@[simp] theorem raiseFault_vuSt (b : FaultBit) (s : State) : (raiseFault b s).vuSt = s.vuSt := rfl
@[simp] theorem raiseFault_slots (b : FaultBit) (s : State) : (raiseFault b s).slots = s.slots := rfl
@[simp] theorem raiseFault_cfg (b : FaultBit) (s : State) : (raiseFault b s).cfg = s.cfg := rfl
@[simp] theorem raiseFault_port (b : FaultBit) (s : State) : (raiseFault b s).port = s.port := rfl
@[simp] theorem raiseFault_sched (b : FaultBit) (s : State) : (raiseFault b s).sched = s.sched := rfl
@[simp] theorem raiseFault_out (b : FaultBit) (s : State) : (raiseFault b s).out = s.out := rfl

/-! ### `setSlot` -/

@[simp] theorem setSlot_rxArmed (i : Nat) (sl : Slot) (s : State) : (setSlot i sl s).rxArmed = s.rxArmed := rfl
@[simp] theorem setSlot_rxState (i : Nat) (sl : Slot) (s : State) : (setSlot i sl s).rxState = s.rxState := rfl
@[simp] theorem setSlot_rxCrc (i : Nat) (sl : Slot) (s : State) : (setSlot i sl s).rxCrc = s.rxCrc := rfl
@[simp] theorem setSlot_rxSrc (i : Nat) (sl : Slot) (s : State) : (setSlot i sl s).rxSrc = s.rxSrc := rfl
@[simp] theorem setSlot_rxDst (i : Nat) (sl : Slot) (s : State) : (setSlot i sl s).rxDst = s.rxDst := rfl
@[simp] theorem setSlot_rxVacc (i : Nat) (sl : Slot) (s : State) : (setSlot i sl s).rxVacc = s.rxVacc := rfl
@[simp] theorem setSlot_rxVn (i : Nat) (sl : Slot) (s : State) : (setSlot i sl s).rxVn = s.rxVn := rfl
@[simp] theorem setSlot_rxLen (i : Nat) (sl : Slot) (s : State) : (setSlot i sl s).rxLen = s.rxLen := rfl
@[simp] theorem setSlot_rxPay (i : Nat) (sl : Slot) (s : State) : (setSlot i sl s).rxPay = s.rxPay := rfl
@[simp] theorem setSlot_rxCrcLo (i : Nat) (sl : Slot) (s : State) : (setSlot i sl s).rxCrcLo = s.rxCrcLo := rfl
@[simp] theorem setSlot_rxRaw (i : Nat) (sl : Slot) (s : State) : (setSlot i sl s).rxRaw = s.rxRaw := rfl
@[simp] theorem setSlot_inFifo (i : Nat) (sl : Slot) (s : State) : (setSlot i sl s).inFifo = s.inFifo := rfl
@[simp] theorem setSlot_trRdPending (i : Nat) (sl : Slot) (s : State) : (setSlot i sl s).trRdPending = s.trRdPending :=
  rfl
@[simp] theorem setSlot_txBusy (i : Nat) (sl : Slot) (s : State) : (setSlot i sl s).txBusy = s.txBusy := rfl
@[simp] theorem setSlot_wrongId (i : Nat) (sl : Slot) (s : State) : (setSlot i sl s).wrongId = s.wrongId := rfl
@[simp] theorem setSlot_fault (i : Nat) (sl : Slot) (s : State) : (setSlot i sl s).fault = s.fault := rfl
@[simp] theorem setSlot_crcReg (i : Nat) (sl : Slot) (s : State) : (setSlot i sl s).crcReg = s.crcReg := rfl
@[simp] theorem setSlot_vuAcc (i : Nat) (sl : Slot) (s : State) : (setSlot i sl s).vuAcc = s.vuAcc := rfl
@[simp] theorem setSlot_vuN (i : Nat) (sl : Slot) (s : State) : (setSlot i sl s).vuN = s.vuN := rfl
@[simp] theorem setSlot_vuSt (i : Nat) (sl : Slot) (s : State) : (setSlot i sl s).vuSt = s.vuSt := rfl
@[simp] theorem setSlot_slots (i : Nat) (sl : Slot) (s : State) : (setSlot i sl s).slots = s.slots.set i sl := rfl
@[simp] theorem setSlot_cfg (i : Nat) (sl : Slot) (s : State) : (setSlot i sl s).cfg = s.cfg := rfl
@[simp] theorem setSlot_port (i : Nat) (sl : Slot) (s : State) : (setSlot i sl s).port = s.port := rfl
@[simp] theorem setSlot_sched (i : Nat) (sl : Slot) (s : State) : (setSlot i sl s).sched = s.sched := rfl
@[simp] theorem setSlot_out (i : Nat) (sl : Slot) (s : State) : (setSlot i sl s).out = s.out := rfl

/-! ### `rxResync` -/

@[simp] theorem rxResync_rxArmed (s : State) : (rxResync s).rxArmed = s.rxArmed := rfl
@[simp] theorem rxResync_rxState (s : State) : (rxResync s).rxState = .hunt0 := rfl
@[simp] theorem rxResync_rxCrc (s : State) : (rxResync s).rxCrc = s.rxCrc := rfl
@[simp] theorem rxResync_rxSrc (s : State) : (rxResync s).rxSrc = s.rxSrc := rfl
@[simp] theorem rxResync_rxDst (s : State) : (rxResync s).rxDst = s.rxDst := rfl
@[simp] theorem rxResync_rxVacc (s : State) : (rxResync s).rxVacc = 0 := rfl
@[simp] theorem rxResync_rxVn (s : State) : (rxResync s).rxVn = 0 := rfl
@[simp] theorem rxResync_rxLen (s : State) : (rxResync s).rxLen = 0 := rfl
@[simp] theorem rxResync_rxPay (s : State) : (rxResync s).rxPay = [] := rfl
@[simp] theorem rxResync_rxCrcLo (s : State) : (rxResync s).rxCrcLo = s.rxCrcLo := rfl
@[simp] theorem rxResync_rxRaw (s : State) : (rxResync s).rxRaw = [] := rfl
@[simp] theorem rxResync_inFifo (s : State) : (rxResync s).inFifo = s.inFifo := rfl
@[simp] theorem rxResync_trRdPending (s : State) : (rxResync s).trRdPending = s.trRdPending := rfl
@[simp] theorem rxResync_txBusy (s : State) : (rxResync s).txBusy = s.txBusy := rfl
@[simp] theorem rxResync_wrongId (s : State) : (rxResync s).wrongId = s.wrongId := rfl
@[simp] theorem rxResync_fault (s : State) : (rxResync s).fault = s.fault := rfl
@[simp] theorem rxResync_crcReg (s : State) : (rxResync s).crcReg = s.crcReg := rfl
@[simp] theorem rxResync_vuAcc (s : State) : (rxResync s).vuAcc = s.vuAcc := rfl
@[simp] theorem rxResync_vuN (s : State) : (rxResync s).vuN = s.vuN := rfl
@[simp] theorem rxResync_vuSt (s : State) : (rxResync s).vuSt = s.vuSt := rfl
@[simp] theorem rxResync_slots (s : State) : (rxResync s).slots = s.slots := rfl
@[simp] theorem rxResync_cfg (s : State) : (rxResync s).cfg = s.cfg := rfl
@[simp] theorem rxResync_port (s : State) : (rxResync s).port = s.port := rfl
@[simp] theorem rxResync_sched (s : State) : (rxResync s).sched = s.sched := rfl
@[simp] theorem rxResync_out (s : State) : (rxResync s).out = s.out := rfl

/-! ### `rxStart` -/

@[simp] theorem rxStart_rxArmed (s : State) : (rxStart s).rxArmed = s.rxArmed := rfl
@[simp] theorem rxStart_rxState (s : State) : (rxStart s).rxState = .hunt1 := rfl
@[simp] theorem rxStart_rxCrc (s : State) : (rxStart s).rxCrc = crcStep crcInit 0x54 := rfl
@[simp] theorem rxStart_rxSrc (s : State) : (rxStart s).rxSrc = s.rxSrc := rfl
@[simp] theorem rxStart_rxDst (s : State) : (rxStart s).rxDst = s.rxDst := rfl
@[simp] theorem rxStart_rxVacc (s : State) : (rxStart s).rxVacc = s.rxVacc := rfl
@[simp] theorem rxStart_rxVn (s : State) : (rxStart s).rxVn = s.rxVn := rfl
@[simp] theorem rxStart_rxLen (s : State) : (rxStart s).rxLen = s.rxLen := rfl
@[simp] theorem rxStart_rxPay (s : State) : (rxStart s).rxPay = s.rxPay := rfl
@[simp] theorem rxStart_rxCrcLo (s : State) : (rxStart s).rxCrcLo = s.rxCrcLo := rfl
@[simp] theorem rxStart_rxRaw (s : State) : (rxStart s).rxRaw = [0x54] := rfl
@[simp] theorem rxStart_inFifo (s : State) : (rxStart s).inFifo = s.inFifo := rfl
@[simp] theorem rxStart_trRdPending (s : State) : (rxStart s).trRdPending = s.trRdPending := rfl
@[simp] theorem rxStart_txBusy (s : State) : (rxStart s).txBusy = s.txBusy := rfl
@[simp] theorem rxStart_wrongId (s : State) : (rxStart s).wrongId = s.wrongId := rfl
@[simp] theorem rxStart_fault (s : State) : (rxStart s).fault = s.fault := rfl
@[simp] theorem rxStart_crcReg (s : State) : (rxStart s).crcReg = s.crcReg := rfl
@[simp] theorem rxStart_vuAcc (s : State) : (rxStart s).vuAcc = s.vuAcc := rfl
@[simp] theorem rxStart_vuN (s : State) : (rxStart s).vuN = s.vuN := rfl
@[simp] theorem rxStart_vuSt (s : State) : (rxStart s).vuSt = s.vuSt := rfl
@[simp] theorem rxStart_slots (s : State) : (rxStart s).slots = s.slots := rfl
@[simp] theorem rxStart_cfg (s : State) : (rxStart s).cfg = s.cfg := rfl
@[simp] theorem rxStart_port (s : State) : (rxStart s).port = s.port := rfl
@[simp] theorem rxStart_sched (s : State) : (rxStart s).sched = s.sched := rfl
@[simp] theorem rxStart_out (s : State) : (rxStart s).out = s.out := rfl

/-! ### `rxAcc` -/

@[simp] theorem rxAcc_rxArmed (b : Byte) (s : State) : (rxAcc b s).rxArmed = s.rxArmed := rfl
@[simp] theorem rxAcc_rxState (b : Byte) (s : State) : (rxAcc b s).rxState = s.rxState := rfl
@[simp] theorem rxAcc_rxCrc (b : Byte) (s : State) : (rxAcc b s).rxCrc = crcStep s.rxCrc b := rfl
@[simp] theorem rxAcc_rxSrc (b : Byte) (s : State) : (rxAcc b s).rxSrc = s.rxSrc := rfl
@[simp] theorem rxAcc_rxDst (b : Byte) (s : State) : (rxAcc b s).rxDst = s.rxDst := rfl
@[simp] theorem rxAcc_rxVacc (b : Byte) (s : State) : (rxAcc b s).rxVacc = s.rxVacc := rfl
@[simp] theorem rxAcc_rxVn (b : Byte) (s : State) : (rxAcc b s).rxVn = s.rxVn := rfl
@[simp] theorem rxAcc_rxLen (b : Byte) (s : State) : (rxAcc b s).rxLen = s.rxLen := rfl
@[simp] theorem rxAcc_rxPay (b : Byte) (s : State) : (rxAcc b s).rxPay = s.rxPay := rfl
@[simp] theorem rxAcc_rxCrcLo (b : Byte) (s : State) : (rxAcc b s).rxCrcLo = s.rxCrcLo := rfl
@[simp] theorem rxAcc_rxRaw (b : Byte) (s : State) : (rxAcc b s).rxRaw = s.rxRaw ++ [b] := rfl
@[simp] theorem rxAcc_inFifo (b : Byte) (s : State) : (rxAcc b s).inFifo = s.inFifo := rfl
@[simp] theorem rxAcc_trRdPending (b : Byte) (s : State) : (rxAcc b s).trRdPending = s.trRdPending := rfl
@[simp] theorem rxAcc_txBusy (b : Byte) (s : State) : (rxAcc b s).txBusy = s.txBusy := rfl
@[simp] theorem rxAcc_wrongId (b : Byte) (s : State) : (rxAcc b s).wrongId = s.wrongId := rfl
@[simp] theorem rxAcc_fault (b : Byte) (s : State) : (rxAcc b s).fault = s.fault := rfl
@[simp] theorem rxAcc_crcReg (b : Byte) (s : State) : (rxAcc b s).crcReg = s.crcReg := rfl
@[simp] theorem rxAcc_vuAcc (b : Byte) (s : State) : (rxAcc b s).vuAcc = s.vuAcc := rfl
@[simp] theorem rxAcc_vuN (b : Byte) (s : State) : (rxAcc b s).vuN = s.vuN := rfl
@[simp] theorem rxAcc_vuSt (b : Byte) (s : State) : (rxAcc b s).vuSt = s.vuSt := rfl
@[simp] theorem rxAcc_slots (b : Byte) (s : State) : (rxAcc b s).slots = s.slots := rfl
@[simp] theorem rxAcc_cfg (b : Byte) (s : State) : (rxAcc b s).cfg = s.cfg := rfl
@[simp] theorem rxAcc_port (b : Byte) (s : State) : (rxAcc b s).port = s.port := rfl
@[simp] theorem rxAcc_sched (b : Byte) (s : State) : (rxAcc b s).sched = s.sched := rfl
@[simp] theorem rxAcc_out (b : Byte) (s : State) : (rxAcc b s).out = s.out := rfl

/-! ### `raiseIfFatal` -/

@[simp] theorem raiseIfFatal_rxArmed (b : FaultBit) (s : State) : (raiseIfFatal b s).rxArmed = s.rxArmed := by
  unfold raiseIfFatal; split <;> rfl
@[simp] theorem raiseIfFatal_rxState (b : FaultBit) (s : State) : (raiseIfFatal b s).rxState = s.rxState := by
  unfold raiseIfFatal; split <;> rfl
@[simp] theorem raiseIfFatal_rxCrc (b : FaultBit) (s : State) : (raiseIfFatal b s).rxCrc = s.rxCrc := by
  unfold raiseIfFatal; split <;> rfl
@[simp] theorem raiseIfFatal_rxSrc (b : FaultBit) (s : State) : (raiseIfFatal b s).rxSrc = s.rxSrc := by
  unfold raiseIfFatal; split <;> rfl
@[simp] theorem raiseIfFatal_rxDst (b : FaultBit) (s : State) : (raiseIfFatal b s).rxDst = s.rxDst := by
  unfold raiseIfFatal; split <;> rfl
@[simp] theorem raiseIfFatal_rxVacc (b : FaultBit) (s : State) : (raiseIfFatal b s).rxVacc = s.rxVacc := by
  unfold raiseIfFatal; split <;> rfl
@[simp] theorem raiseIfFatal_rxVn (b : FaultBit) (s : State) : (raiseIfFatal b s).rxVn = s.rxVn := by
  unfold raiseIfFatal; split <;> rfl
@[simp] theorem raiseIfFatal_rxLen (b : FaultBit) (s : State) : (raiseIfFatal b s).rxLen = s.rxLen := by
  unfold raiseIfFatal; split <;> rfl
@[simp] theorem raiseIfFatal_rxPay (b : FaultBit) (s : State) : (raiseIfFatal b s).rxPay = s.rxPay := by
  unfold raiseIfFatal; split <;> rfl
@[simp] theorem raiseIfFatal_rxCrcLo (b : FaultBit) (s : State) : (raiseIfFatal b s).rxCrcLo = s.rxCrcLo := by
  unfold raiseIfFatal; split <;> rfl
@[simp] theorem raiseIfFatal_rxRaw (b : FaultBit) (s : State) : (raiseIfFatal b s).rxRaw = s.rxRaw := by
  unfold raiseIfFatal; split <;> rfl
@[simp] theorem raiseIfFatal_inFifo (b : FaultBit) (s : State) : (raiseIfFatal b s).inFifo = s.inFifo := by
  unfold raiseIfFatal; split <;> rfl
@[simp] theorem raiseIfFatal_trRdPending (b : FaultBit) (s : State) : (raiseIfFatal b s).trRdPending = s.trRdPending := by
  unfold raiseIfFatal; split <;> rfl
@[simp] theorem raiseIfFatal_txBusy (b : FaultBit) (s : State) : (raiseIfFatal b s).txBusy = s.txBusy := by
  unfold raiseIfFatal; split <;> rfl
@[simp] theorem raiseIfFatal_wrongId (b : FaultBit) (s : State) : (raiseIfFatal b s).wrongId = s.wrongId := by
  unfold raiseIfFatal; split <;> rfl
theorem raiseIfFatal_fault (b : FaultBit) (s : State) :
    (raiseIfFatal b s).fault = if s.cfg.overflowPolicy = .fatal then s.fault ||| faultMask b else s.fault := by
  unfold raiseIfFatal; split <;> rfl
@[simp] theorem raiseIfFatal_crcReg (b : FaultBit) (s : State) : (raiseIfFatal b s).crcReg = s.crcReg := by
  unfold raiseIfFatal; split <;> rfl
@[simp] theorem raiseIfFatal_vuAcc (b : FaultBit) (s : State) : (raiseIfFatal b s).vuAcc = s.vuAcc := by
  unfold raiseIfFatal; split <;> rfl
@[simp] theorem raiseIfFatal_vuN (b : FaultBit) (s : State) : (raiseIfFatal b s).vuN = s.vuN := by
  unfold raiseIfFatal; split <;> rfl
@[simp] theorem raiseIfFatal_vuSt (b : FaultBit) (s : State) : (raiseIfFatal b s).vuSt = s.vuSt := by
  unfold raiseIfFatal; split <;> rfl
@[simp] theorem raiseIfFatal_slots (b : FaultBit) (s : State) : (raiseIfFatal b s).slots = s.slots := by
  unfold raiseIfFatal; split <;> rfl
@[simp] theorem raiseIfFatal_cfg (b : FaultBit) (s : State) : (raiseIfFatal b s).cfg = s.cfg := by
  unfold raiseIfFatal; split <;> rfl
@[simp] theorem raiseIfFatal_port (b : FaultBit) (s : State) : (raiseIfFatal b s).port = s.port := by
  unfold raiseIfFatal; split <;> rfl
@[simp] theorem raiseIfFatal_sched (b : FaultBit) (s : State) : (raiseIfFatal b s).sched = s.sched := by
  unfold raiseIfFatal; split <;> rfl
@[simp] theorem raiseIfFatal_out (b : FaultBit) (s : State) : (raiseIfFatal b s).out = s.out := by
  unfold raiseIfFatal; split <;> rfl

end Sys2Proof.Machine
end

