-- ==== Sys2Proof/Laws/Ops.lean ====
section
/-! SUPPORT. What each shared operation over State can do, said once. -/

namespace Sys2Proof.Machine

/-! ### Slots -/

theorem slotAt_eq (s : State) (i : Nat) : slotAt s i = s.slots.getD i Slot.reset := rfl

@[simp] theorem slotAt_emit (e : Event) (s : State) (i : Nat) : slotAt (emit e s) i = slotAt s i := rfl

@[simp] theorem slotAt_raiseFault (b : FaultBit) (s : State) (i : Nat) : slotAt (raiseFault b s) i = slotAt s i := rfl

@[simp] theorem slotAt_raiseIfFatal (b : FaultBit) (s : State) (i : Nat) :
    slotAt (raiseIfFatal b s) i = slotAt s i := by
  simp [slotAt_eq]

theorem slotAt_setSlot (i j : Nat) (sl : Slot) (s : State) (h : i < s.slots.length) :
    slotAt (setSlot i sl s) j = if i = j then sl else slotAt s j := by
  simp only [slotAt_eq, setSlot_slots, List.getD_eq_getElem?_getD, List.getElem?_set]
  split <;> simp

@[simp] theorem findSlot_emit (ch : Word32) (e : Event) (s : State) : findSlot ch (emit e s) = findSlot ch s := rfl

@[simp] theorem findSlot_raiseFault (ch : Word32) (b : FaultBit) (s : State) :
    findSlot ch (raiseFault b s) = findSlot ch s := rfl

@[simp] theorem findSlot_raiseIfFatal (ch : Word32) (b : FaultBit) (s : State) :
    findSlot ch (raiseIfFatal b s) = findSlot ch s := by
  simp [findSlot]

/-- A found slot is in the arena, used, and the channel's. -/
theorem findSlot_some {ch : Word32} {s : State} {i : Nat} (h : findSlot ch s = some i) :
    i < s.slots.length ∧ (slotAt s i).used = true ∧ (slotAt s i).id = ch := by
  obtain ⟨hi, hp, -⟩ := List.findIdx?_eq_some_iff_getElem.mp h
  simp only [Bool.and_eq_true, beq_iff_eq] at hp
  simpa [slotAt_eq, hi] using hp

/-- The free slot that a claim takes is in the arena and free. -/
theorem freeSlot_some {s : State} {i : Nat} (h : freeSlot s = some i) :
    i < s.slots.length ∧ (slotAt s i).used = false := by
  obtain ⟨hi, hp, -⟩ := List.findIdx?_eq_some_iff_getElem.mp h
  simp only [Bool.not_eq_true'] at hp
  simpa [slotAt_eq, hi] using hp

/-- All that `slot_lookup` can do (44_channel.md R210): find, claim, or neither. -/
theorem slotLookup_cases (ch : Word32) (create : Bool) (s : State) :
    (∃ i, findSlot ch s = some i ∧ slotLookup ch create s = (some i, s)) ∨
      (findSlot ch s = none ∧ create = true ∧ ∃ i, freeSlot s = some i ∧
        slotLookup ch create s = (some i, setSlot i { slotAt s i with used := true, id := ch } s)) ∨
      (findSlot ch s = none ∧ (create = true → freeSlot s = none) ∧ slotLookup ch create s = (none, s)) := by
  unfold slotLookup
  cases hf : findSlot ch s with
  | some i => exact .inl ⟨i, rfl, rfl⟩
  | none =>
    cases create with
    | false => exact .inr (.inr ⟨rfl, by simp, rfl⟩)
    | true =>
      cases hg : freeSlot s with
      | some i => exact .inr (.inl ⟨rfl, rfl, i, rfl, rfl⟩)
      | none => exact .inr (.inr ⟨rfl, fun _ => rfl, rfl⟩)

/-- The fault bit that `queue_in` may set; it writes nothing else but its slot (44_channel.md R212). -/
theorem queueIn_fault (i : Nat) (d : List Byte) (s : State) :
    (queueIn i d s).fault =
      if d.length > s.cfg.queueCap - (slotAt s i).q.length then (raiseIfFatal .queueOverflow s).fault else s.fault := by
  unfold queueIn
  simp only [setSlot_fault]
  split <;> rfl

theorem queueIn_slots (i : Nat) (d : List Byte) (s : State) :
    (queueIn i d s).slots =
      s.slots.set i { slotAt s i with q := (slotAt s i).q ++ d.take (s.cfg.queueCap - (slotAt s i).q.length) } := by
  unfold queueIn
  simp only [setSlot_slots]
  split <;> simp

/-! ### Parsing -/

@[simp] theorem Parse.andThen_ok {α β : Type} (v : α) (r : List Byte) (k : α → List Byte → Parse β) :
    (Parse.ok v r).andThen k = k v r := rfl

@[simp] theorem Parse.andThen_err {α β : Type} (e : DecodeError) (k : α → List Byte → Parse β) :
    (Parse.err e : Parse α).andThen k = .err e := rfl

@[simp] theorem Parse.map_ok {α β : Type} (f : α → β) (v : α) (r : List Byte) :
    (Parse.ok v r).map f = .ok (f v) r := rfl

@[simp] theorem Parse.map_err {α β : Type} (f : α → β) (e : DecodeError) :
    (Parse.err e : Parse α).map f = .err e := rfl

theorem Parse.andThen_eq_ok {α β : Type} {p : Parse α} {k : α → List Byte → Parse β} {w : β} {r : List Byte} :
    p.andThen k = .ok w r ↔ ∃ v r', p = .ok v r' ∧ k v r' = .ok w r := by
  cases p <;> simp

theorem Parse.map_eq_ok {α β : Type} {p : Parse α} {f : α → β} {w : β} {r : List Byte} :
    p.map f = .ok w r ↔ ∃ v, p = .ok v r ∧ f v = w := by
  cases p <;> simp [and_comm]

/-- `FIX(m)` on bytes that open with `m` given ones. -/
theorem fix_append (d r : List Byte) : fix d.length (d ++ r) = .ok d r := by
  simp [fix]

theorem fix_eq_ok {m : Nat} {s d r : List Byte} : fix m s = .ok d r ↔ s = d ++ r ∧ d.length = m := by
  unfold fix
  split
  · rename_i h
    constructor
    · intro e
      injection e with e1 e2
      subst e1 e2
      exact ⟨(List.take_append_drop m s).symm, by simp [h]⟩
    · rintro ⟨rfl, rfl⟩
      simp
  · rename_i h
    constructor
    · intro e; cases e
    · rintro ⟨rfl, rfl⟩
      simp at h

/-- What `vu_parse` reads does not depend on the bytes after it (41_varuint.md R123). -/
theorem vuParseFrom_append {a : Word32} {n : Fin 5} {x r : List Byte} {v : Word32} (rest : List Byte)
    (h : vuParseFrom a n x = .ok v r) : vuParseFrom a n (x ++ rest) = .ok v (r ++ rest) := by
  induction x generalizing a n with
  | nil => cases h
  | cons b x ih =>
    rw [List.cons_append, vuParseFrom]
    rw [vuParseFrom] at h
    split at h
    · exact ih h
    · injection h with h1 h2
      subst h1 h2
      rfl
    · cases h

/-- The bytes that `vu_parse` reads are by themselves an encoding of what it answers. -/
theorem vuParseFrom_prefix {a : Word32} {n : Fin 5} {s r : List Byte} {v : Word32} (h : vuParseFrom a n s = .ok v r) :
    ∃ x, s = x ++ r ∧ vuParseFrom a n x = .ok v [] := by
  induction s generalizing a n with
  | nil => cases h
  | cons b s ih =>
    rw [vuParseFrom] at h
    split at h
    · next e =>
      obtain ⟨x, rfl, hx⟩ := ih h
      exact ⟨b :: x, rfl, by rw [vuParseFrom, e]; exact hx⟩
    · next e =>
      injection h with h1 h2
      subst h1 h2
      exact ⟨[b], rfl, by rw [vuParseFrom, e]⟩
    · cases h

/-- All that `vu_parse` can answer with a value: the bytes open with an encoding of it (41_varuint.md R123, R127). -/
theorem vuParse_eq_ok {s r : List Byte} {v : Word32} :
    vuParse s = .ok v r ↔ ∃ x, s = x ++ r ∧ vuParseFrom 0 0 x = .ok v [] :=
  ⟨vuParseFrom_prefix, fun ⟨_, e, h⟩ => e ▸ vuParseFrom_append r h⟩

/-! ### The receiver -/

/-- In each value of `rx_state` a byte is handled by one definition (42_frame.md R150). -/
theorem rxTake_hunt0 (b : Byte) (s : State) (h : s.rxState = .hunt0) : rxTake b s = rxHunt0 b s := by
  simp [rxTake, h]

theorem rxTake_hunt1 (b : Byte) (s : State) (h : s.rxState = .hunt1) : rxTake b s = rxHunt1 b s := by
  simp [rxTake, h]

theorem rxTake_src (b : Byte) (s : State) (h : s.rxState = .src) : rxTake b s = rxTakeSrc b s := by
  simp [rxTake, h]

theorem rxTake_dst (b : Byte) (s : State) (h : s.rxState = .dst) : rxTake b s = rxTakeDst b s := by
  simp [rxTake, h]

theorem rxTake_len (b : Byte) (s : State) (h : s.rxState = .len) : rxTake b s = rxTakeLen b s := by
  simp [rxTake, h]

theorem rxTake_payload (b : Byte) (s : State) (h : s.rxState = .payload) : rxTake b s = rxTakePay b s := by
  simp [rxTake, h]

theorem rxTake_crc0 (b : Byte) (s : State) (h : s.rxState = .crc0) : rxTake b s = rxTakeCrc0 b s := by
  simp [rxTake, h]

theorem rxTake_crc1 (b : Byte) (s : State) (h : s.rxState = .crc1) : rxTake b s = rxTakeCrc1 b s := by
  simp [rxTake, h]

/-- RX.BYTE on an armed receiver with a byte queued: that byte is taken (42_frame.md R150). -/
theorem execRxByte_cons {s : State} {b : Byte} {rest : List Byte} (ha : s.rxArmed = true) (hb : s.inFifo = b :: rest) :
    execRxByte s = .next (rxTake b { s with inFifo := rest }) := by
  simp [execRxByte, rxByteEnabled, rxByteStep, ha, hb]

/-- `m + n` steps are `m` steps and then `n` steps. -/
theorem rxByteN_add (m n : Nat) (s : State) : rxByteN (m + n) s = rxByteN n (rxByteN m s) := by
  induction m generalizing s with
  | zero => rw [Nat.zero_add, rxByteN]
  | succ m ih =>
    rw [Nat.succ_add, rxByteN, rxByteN]
    split
    · exact ih _
    · rename_i h
      cases n with
      | zero => rfl
      | succ n => rw [rxByteN, if_neg h]

/-- All that `vu_step` can answer (41_varuint.md R122): more, with one more byte counted; a value; or an error, on the
fifth byte only. -/
theorem vuStep_cases (acc : Word32) (n : Fin 5) (b : Byte) :
    (n ≠ 4 ∧ b.msb = true ∧ ∃ a, vuStep acc n b = (a, n + 1, .more)) ∨ (∃ v, vuStep acc n b = (0, 0, .done v)) ∨
      (n = 4 ∧ vuStep acc n b = (0, 0, .err)) := by
  unfold vuStep
  by_cases hn : n = 4
  · simp only [hn, if_true]
    split <;> simp
  · simp only [hn, if_false]
    cases b.msb <;> simp [hn]

end Sys2Proof.Machine
end

