-- ==== Sys2Proof/Laws/Demux.lean ====
section
/-! SUPPORT. What the demultiplexer's operations can touch: the arena, the fault register and the events, and nothing
else (43_demux.md R184 to R189). -/

namespace Sys2Proof.Machine

/-- `t` is `s` but for the arena, the fault register and the events. -/
abbrev SlotsFaultOut (s t : State) : Prop :=
  t = { s with slots := t.slots, fault := t.fault, out := t.out }

theorem SlotsFaultOut.refl (s : State) : SlotsFaultOut s s := rfl

theorem SlotsFaultOut.trans {s t u : State} (h : SlotsFaultOut s t) (k : SlotsFaultOut t u) : SlotsFaultOut s u := by
  rw [SlotsFaultOut, k, h]

theorem emit_slotsFaultOut (e : Event) (s : State) : SlotsFaultOut s (emit e s) := rfl

theorem setSlot_slotsFaultOut (i : Nat) (sl : Slot) (s : State) : SlotsFaultOut s (setSlot i sl s) := rfl

theorem raiseIfFatal_slotsFaultOut (b : FaultBit) (s : State) : SlotsFaultOut s (raiseIfFatal b s) := by
  unfold raiseIfFatal
  split <;> rfl

theorem queueIn_slotsFaultOut (i : Nat) (d : List Byte) (s : State) : SlotsFaultOut s (queueIn i d s) := by
  have h : SlotsFaultOut s
      (if d.length > s.cfg.queueCap - (slotAt s i).q.length then raiseIfFatal .queueOverflow s else s) := by
    split
    · exact raiseIfFatal_slotsFaultOut _ s
    · rfl
  exact h.trans (setSlot_slotsFaultOut ..)

theorem tunnelRxSlot_slotsFaultOut (i : Nat) (ch : Word32) (d : List Byte) (s : State) :
    SlotsFaultOut s (tunnelRxSlot i ch d s) := by
  unfold tunnelRxSlot
  split
  · rfl
  · split
    · dsimp only
      split
      · rfl
      · exact ((setSlot_slotsFaultOut ..).trans (emit_slotsFaultOut ..)).trans (queueIn_slotsFaultOut ..)
    · exact queueIn_slotsFaultOut i d s

/-- The fault bit that `tunnel_rx` may set once the slot is known: exactly where the data does not fit (43_demux.md R186,
44_channel.md R212). -/
theorem tunnelRxSlot_fault (i : Nat) (ch : Word32) (d : List Byte) (s : State) :
    (tunnelRxSlot i ch d s).fault =
      if overflowsSlot i d s then (raiseIfFatal .queueOverflow s).fault else s.fault := by
  unfold tunnelRxSlot overflowsSlot
  by_cases hd : d = []
  · simp [hd]
  by_cases hp : (slotAt s i).prd
  · have hq : ∀ e : Event,
        (slotAt (emit e (setSlot i { slotAt s i with prd := false, prdCap := 0 } s)) i).q = (slotAt s i).q := by
      intro e
      by_cases hi : i < s.slots.length <;> simp [slotAt_eq, emit, setSlot, hi]
    simp only [hd, hp, if_true, if_false]
    split
    · next h => simp [Nat.sub_eq_zero_of_le (List.drop_eq_nil_iff.mp h)]
    · rw [queueIn_fault, hq]
      simp only [List.length_drop, decide_eq_true_eq, gt_iff_lt, raiseIfFatal_fault, emit, setSlot]
  · simp [hd, hp, queueIn_fault]

theorem tunnelRx_slotsFaultOut (ch : Word32) (d : List Byte) (s : State) : SlotsFaultOut s (tunnelRx ch d s) := by
  unfold tunnelRx
  obtain ⟨i, -, h⟩ | ⟨-, -, i, -, h⟩ | ⟨-, -, h⟩ := slotLookup_cases ch true s <;> rw [h]
  · exact tunnelRxSlot_slotsFaultOut i ch d s
  · exact (setSlot_slotsFaultOut ..).trans (tunnelRxSlot_slotsFaultOut ..)
  · exact raiseIfFatal_slotsFaultOut .slotExhausted s

theorem handleTunnel_slotsFaultOut (tag : Byte) (ch : Word32) (d : List Byte) (s : State) :
    SlotsFaultOut s (handleTunnel tag ch d s) := by
  unfold handleTunnel
  split
  · exact tunnelRx_slotsFaultOut ch d s
  · rfl

theorem handleSubframe_slotsFaultOut (sub : Subframe) (s : State) : SlotsFaultOut s (handleSubframe sub s) := by
  cases sub with
  | tunnelC2s ch d => exact handleTunnel_slotsFaultOut 0x40 ch d s
  | tunnelS2c ch d => exact handleTunnel_slotsFaultOut 0x41 ch d s
  | _ => rfl

theorem walkFrom_slotsFaultOut (n : Nat) (p : List Byte) (s : State) : SlotsFaultOut s (walkFrom n p s) := by
  induction n generalizing p s with
  | zero => rfl
  | succ n ih =>
    unfold walkFrom
    split
    · rfl
    · split
      · exact (handleSubframe_slotsFaultOut _ s).trans (ih ..)
      · rfl

theorem walk_slotsFaultOut (p : List Byte) (s : State) : SlotsFaultOut s (walk p s) := walkFrom_slotsFaultOut ..

end Sys2Proof.Machine
end

