-- ==== Sys2Proof/Laws/PerInstr.lean ====
section
/-! SUPPORT. The per-instruction family: every encoding opens with the fixed bits of its row of the opcode table. -/

namespace Sys2Proof.Laws.TableMatch

/-- The fixed bits of an instruction's row: mask and match of each of its leading bytes. -/
def fixedBits : Instr → List (Byte × Byte)
  | .crcInit => [(0xFF, 0x01)]
  | .crcUpdate _ => [(0xFF, 0x02)]
  | .crcRead => [(0xFF, 0x03)]
  | .vuEnc _ => [(0xFF, 0x08)]
  | .vuDrst => [(0xFF, 0x09)]
  | .vuDbyte _ => [(0xFF, 0x0A)]
  | .frameWrite _ _ _ _ => [(0xFF, 0x10)]
  | .trWdone _ => [(0xFF, 0x11)]
  | .frameRead => [(0xFF, 0x12)]
  | .trRdone _ => [(0xFF, 0x13)]
  | .trRerr => [(0xFF, 0x14)]
  | .chRead _ _ => [(0xFF, 0x20)]
  | .chWrite _ _ => [(0xFF, 0x21)]
  | .tunnelEmit _ _ => [(0xFF, 0x22)]
  | .reset => [(0xFF, 0x30)]
  | .statRead => [(0xFF, 0x31)]
  | .faultRead => [(0xFF, 0x32)]
  | .rxFetch => [(0xFF, 0x80)]
  | .rxByte => [(0xFF, 0x81)]
  | .writeSingle _ _ _ => [(0xFC, 0x10)]
  | .writeMultiple _ _ _ _ => [(0xFC, 0x14)]
  | .readSingle _ _ => [(0xFC, 0x18)]
  | .readMultiple _ _ _ => [(0xFC, 0x1C)]
  | .replySingle _ _ _ => [(0xFC, 0x20)]
  | .writeError _ _ => [(0xFF, 0x28)]
  | .tunnelC2s _ _ => [(0xFF, 0x40)]
  | .tunnelS2c _ _ => [(0xFF, 0x41)]
  | .frame _ _ _ _ _ _ => [(0xFF, 0x54), (0xFF, 0xAB)]

/-- The bytes open with these fixed bits. -/
def opensWith : List (Byte × Byte) → List Byte → Bool
  | [], _ => true
  | _ :: _, [] => false
  | (mask, val) :: fs, b :: bs => b &&& mask == val && opensWith fs bs

/-- The encoding of the instruction opens with the fixed bits of its row (30_encoding.md R70, R76, R89). -/
def Statement (i : Instr) : Prop := opensWith (fixedBits i) (encode i) = true

/-- One leading byte with the right fixed bits. -/
theorem opensWith_byte (mask val b : Byte) (bs : List Byte) (h : (b &&& mask == val) = true) :
    opensWith [(mask, val)] (b :: bs) = true := by
  simp [opensWith, h]

theorem crcInit : Statement .crcInit := rfl

theorem crcUpdate (b : Byte) : Statement (.crcUpdate b) := rfl

theorem crcRead : Statement .crcRead := rfl

theorem vuEnc (v : Word32) : Statement (.vuEnc v) := rfl

theorem vuDrst : Statement .vuDrst := rfl

theorem vuDbyte (b : Byte) : Statement (.vuDbyte b) := rfl

theorem frameWrite (rr : Byte) (src dst : Word32) (payload : List Byte) : Statement (.frameWrite rr src dst payload) :=
  rfl

theorem trWdone (outcome : OutCode) : Statement (.trWdone outcome) := rfl

theorem frameRead : Statement .frameRead := rfl

theorem trRdone (chunk : List Byte) : Statement (.trRdone chunk) := rfl

theorem trRerr : Statement .trRerr := rfl

theorem chRead (ch cap : Word32) : Statement (.chRead ch cap) := rfl

theorem chWrite (ch : Word32) (data : List Byte) : Statement (.chWrite ch data) := rfl

theorem tunnelEmit (ch space : Word32) : Statement (.tunnelEmit ch space) := rfl

theorem reset : Statement .reset := rfl

theorem statRead : Statement .statRead := rfl

theorem faultRead : Statement .faultRead := rfl

theorem rxFetch : Statement .rxFetch := rfl

theorem rxByte : Statement .rxByte := rfl

theorem writeSingle (t : TypeIndex) (reg : Word32) (value : List Byte) : Statement (.writeSingle t reg value) := by
  cases t <;> exact opensWith_byte _ _ _ _ (by simp [Machine.tagByte, Machine.typeBits])

theorem writeMultiple (t : TypeIndex) (start count : Word32) (values : List Byte) :
    Statement (.writeMultiple t start count values) := by
  cases t <;> exact opensWith_byte _ _ _ _ (by simp [Machine.tagByte, Machine.typeBits])

theorem readSingle (t : TypeIndex) (reg : Word32) : Statement (.readSingle t reg) := by
  cases t <;> exact opensWith_byte _ _ _ _ (by simp [Machine.tagByte, Machine.typeBits])

theorem readMultiple (t : TypeIndex) (start count : Word32) : Statement (.readMultiple t start count) := by
  cases t <;> exact opensWith_byte _ _ _ _ (by simp [Machine.tagByte, Machine.typeBits])

theorem replySingle (t : TypeIndex) (reg : Word32) (value : List Byte) : Statement (.replySingle t reg value) := by
  cases t <;> exact opensWith_byte _ _ _ _ (by simp [Machine.tagByte, Machine.typeBits])

theorem writeError (reg : Word32) (code : Byte) : Statement (.writeError reg code) :=
  opensWith_byte _ _ _ _ (by simp [Machine.tagByte])

theorem tunnelC2s (ch : Word32) (data : List Byte) : Statement (.tunnelC2s ch data) :=
  opensWith_byte _ _ _ _ (by simp [Machine.tagByte])

theorem tunnelS2c (ch : Word32) (data : List Byte) : Statement (.tunnelS2c ch data) :=
  opensWith_byte _ _ _ _ (by simp [Machine.tagByte])

theorem frame (rr : Bool) (src : BitVec 7) (dst : Byte) (len payload : List Byte) (crc : Word16) :
    Statement (.frame rr src dst len payload crc) := rfl

end Sys2Proof.Laws.TableMatch
end

