-- ==== Sys2Proof/Tests/Slice0.lean ====
section
/-! SUPPORT. Tests. Expected values are the spec's own: the words of 30_encoding.md and the vectors of
95_test_vectors.md (K, V, U, F, X, D, C), named in each comment; and for each statement with hypotheses a witness that
meets them. -/

namespace Sys2Proof.Tests

open Sys2Proof Sys2Proof.Machine

/-- A value of the next state, if there is one. -/
def after {α : Type} (o : Host.Outcome State Fault Refusal) (f : State → α) : Option α :=
  match o with
  | .next s => some (f s)
  | .fault _ => none
  | .refused _ => none

/-- The reason of a refusal, if there is one. -/
def refusal (o : Host.Outcome State Fault Refusal) : Option Refusal :=
  match o with
  | .next _ => none
  | .fault _ => none
  | .refused r => some r

set_option maxRecDepth 20000

/-! ### WellFormed refuses an ill-formed term of each check -/

theorem test_wf_frameWrite_too_long (p : List Byte) (h : p.length = 2 ^ 32) : (Instr.frameWrite 0 1 2 p).wf = false :=
  decide_eq_false (by rw [fits32]; omega)

theorem test_wf_trRdone_too_long (p : List Byte) (h : p.length = 2 ^ 32) : (Instr.trRdone p).wf = false :=
  decide_eq_false (by rw [fits32]; omega)

theorem test_wf_chWrite_too_long (p : List Byte) (h : p.length = 2 ^ 32) : (Instr.chWrite 9 p).wf = false :=
  decide_eq_false (by rw [fits32]; omega)

theorem test_wf_trWdone_outcome :
    (Instr.trWdone .errInvalid).wf = false ∧ (Instr.trWdone .errNoSlot).wf = false := by decide

theorem test_wf_writeSingle_size : (Instr.writeSingle .int16 2 [0x20]).wf = false := by decide

theorem test_wf_writeMultiple_size : (Instr.writeMultiple .int16 16 2 [1, 0, 2]).wf = false := by decide

theorem test_wf_replySingle_size : (Instr.replySingle .int32 10 [0, 0, 0x80]).wf = false := by decide

theorem test_wf_tunnelC2s_too_long (p : List Byte) (h : p.length = 2 ^ 32) : (Instr.tunnelC2s 9 p).wf = false :=
  decide_eq_false (by rw [fits32]; omega)

theorem test_wf_tunnelS2c_too_long (p : List Byte) (h : p.length = 2 ^ 32) : (Instr.tunnelS2c 9 p).wf = false :=
  decide_eq_false (by rw [fits32]; omega)

theorem test_wf_frame_length_bytes :
    (Instr.frame false 1 2 [0x01] [] 0).wf = false ∧ (Instr.frame false 1 2 [0x00, 0x00] [] 0).wf = false ∧
      (Instr.frame false 1 2 [] [] 0).wf = false ∧ (Instr.frame false 1 2 [0x80, 0x00] [] 0).wf = true := by decide

theorem test_wf_frame_too_long (p : List Byte) (h : p.length = 2 ^ 32) : (Instr.frame false 1 2 [0x00] p 0).wf = false :=
  decide_eq_false (by rw [fits32]; omega)

/-! ### Words written out from 30_encoding.md R70, R76, R88, R89 -/

theorem test_decode_crcInit : decodeCommand [0x01, 0xEE] = .ok .crcInit [0xEE] := by decide
theorem test_decode_crcUpdate : decodeCommand [0x02, 0xAB] = .ok (.crcUpdate 0xAB) [] := by decide
theorem test_decode_crcRead : decodeCommand [0x03] = .ok .crcRead [] := by decide
theorem test_decode_vuEnc : decodeCommand [0x08, 0x78, 0x56, 0x34, 0x12] = .ok (.vuEnc 0x12345678) [] := by decide
theorem test_decode_vuDrst : decodeCommand [0x09] = .ok .vuDrst [] := by decide
theorem test_decode_vuDbyte : decodeCommand [0x0A, 0x80] = .ok (.vuDbyte 0x80) [] := by decide
theorem test_decode_frameWrite :
    decodeCommand [0x10, 0x01, 0x7F, 0, 0, 0, 0xFF, 1, 0, 0, 0x02, 0, 0, 0, 0xAA, 0xBB, 0xCC] =
      .ok (.frameWrite 1 127 0x1FF [0xAA, 0xBB]) [0xCC] := by decide
theorem test_decode_trWdone : decodeCommand [0x11, 0x01] = .ok (.trWdone .errTransport) [] := by decide
theorem test_decode_trWdone_bad : decodeCommand [0x11, 0x02] = .err (.badOutcome 0x02) := by decide
theorem test_decode_frameRead : decodeCommand [0x12] = .ok .frameRead [] := by decide
theorem test_decode_trRdone : decodeCommand [0x13, 3, 0, 0, 0, 0x54, 0xAB, 1] = .ok (.trRdone [0x54, 0xAB, 1]) [] := by
  decide
theorem test_decode_trRdone_short : decodeCommand [0x13, 3, 0, 0, 0, 0x54, 0xAB] = .err .truncated := by decide
theorem test_decode_trRerr : decodeCommand [0x14] = .ok .trRerr [] := by decide
theorem test_decode_chRead : decodeCommand [0x20, 9, 0, 0, 0, 0, 1, 0, 0] = .ok (.chRead 9 256) [] := by decide
theorem test_decode_chWrite : decodeCommand [0x21, 0x2C, 1, 0, 0, 1, 0, 0, 0, 0x68] = .ok (.chWrite 300 [0x68]) [] := by
  decide
theorem test_decode_tunnelEmit :
    decodeCommand [0x22, 9, 0, 0, 0, 127, 0, 0, 0] = .ok (.tunnelEmit 9 127) [] := by decide
theorem test_decode_reset : decodeCommand [0x30] = .ok .reset [] := by decide
theorem test_decode_statRead : decodeCommand [0x31] = .ok .statRead [] := by decide
theorem test_decode_faultRead : decodeCommand [0x32] = .ok .faultRead [] := by decide
theorem test_decode_internal_on_port :
    decodeCommand [0x80] = .err (.unknownOpcode 0x80) ∧ decodeCommand [0x81] = .err (.unknownOpcode 0x81) := by decide
theorem test_decode_rxFetch : decodeTrace [0x80] = .ok .rxFetch [] := by decide
theorem test_decode_rxByte : decodeTrace [0x81] = .ok .rxByte [] := by decide
theorem test_decode_writeSingle :
    decodeSubframe [0x11, 5, 0x34, 0x12] = .ok (.writeSingle .int16 5 [0x34, 0x12]) [] := by
  decide
theorem test_decode_writeMultiple :
    decodeSubframe [0x15, 0x10, 2, 1, 0, 2, 0] = .ok (.writeMultiple .int16 16 2 [1, 0, 2, 0]) [] := by decide
theorem test_decode_readSingle : decodeSubframe [0x18, 0x80, 0x01] = .ok (.readSingle .int8 128) [] := by decide
theorem test_decode_readMultiple : decodeSubframe [0x1F, 0x0A, 0x02] = .ok (.readMultiple .float32 10 2) [] := by decide
theorem test_decode_replySingle :
    decodeSubframe [0x23, 0x0A, 0, 0, 0x80, 0x3F] = .ok (.replySingle .float32 10 [0, 0, 0x80, 0x3F]) [] := by decide
theorem test_decode_writeError : decodeSubframe [0x28, 2, 0x76] = .ok (.writeError 2 0x76) [] := by decide
theorem test_decode_tunnelC2s :
    decodeSubframe [0x40, 9, 2, 0x68, 0x69] = .ok (.tunnelC2s 9 [0x68, 0x69]) [] := by decide
theorem test_decode_tunnelS2c :
    decodeSubframe [0x41, 0xAC, 2, 2, 0x68, 0x69] = .ok (.tunnelS2c 300 [0x68, 0x69]) [] := by decide
theorem test_decode_frame :
    decodeFrame [0x54, 0xAB, 0xFF, 0x80, 1, 0xAA, 0x34, 0x12] = .ok (.frame true 127 0x80 [1] [0xAA] 0x1234) [] := by
  decide

/-- The whole map of the tags (R76): which of the 256 values opens a subframe. -/
theorem test_decode_tags :
    ∀ n : Fin 256, (decodeSubframe (BitVec.ofNat 8 n.val :: List.replicate 9 0) =
        .err (.unassignedTag (BitVec.ofNat 8 n.val))) ↔
      (n.val < 0x10 ∨ 0x24 ≤ n.val ∧ n.val ≤ 0x27 ∨ 0x29 ≤ n.val ∧ n.val ≤ 0x3F ∨ 0x42 ≤ n.val) := by decide

/-! ### One step each -/

/-- TC after reset, with FRAME.READ outstanding. -/
def armed : State := { State.reset with rxArmed := true }

/-- TC after reset, with channel 9 in slot 0. -/
def nine (sl : Slot) : State := { State.reset with slots := State.reset.slots.set 0 { sl with used := true, id := 9 } }

/-- K11. -/
theorem test_crcUpdate : after (exec (.crcUpdate 0x54) State.reset) (·.crcReg) = some 0xFB81 := by decide
theorem test_crcInit : after (exec .crcInit { State.reset with crcReg := 0x1234 }) (·.crcReg) = some 0xFFFF := by decide
theorem test_crcRead :
    after (exec .crcRead { State.reset with crcReg := 0x2803 }) (fun s => (s.out, s.crcReg)) =
      some ([.crcValue 0x2803], 0x2803) := by decide
/-- K1, K7. -/
theorem test_crc16_check : crc16 [0x31, 0x32, 0x33, 0x34, 0x35, 0x36, 0x37, 0x38, 0x39] = 0x29B1 := by decide
theorem test_crc16_frame : crc16 [0x54, 0xAB, 0x01, 0x02, 0x00] = 0x2803 := by decide
/-- V6, V13. -/
theorem test_vuEnc_300 : after (exec (.vuEnc 300) State.reset) (·.out) = some [.vuBytes [0xAC, 0x02]] := by decide
theorem test_vuEnc_max :
    after (exec (.vuEnc 4294967295) State.reset) (·.out) = some [.vuBytes [0xFF, 0xFF, 0xFF, 0xFF, 0x0F]] := by decide
/-- U9. -/
theorem test_vuDrst :
    after (exec .vuDrst { State.reset with vuAcc := 5, vuN := 1, vuSt := .more }) (fun s => (s.vuAcc, s.vuN, s.vuSt)) =
      some (0, 0, .idle) := by decide
/-- U3: the fifth byte of `FF FF FF FF 1F`. -/
theorem test_vuDbyte_err :
    after (exec (.vuDbyte 0x1F) { State.reset with vuAcc := 0x0FFFFFFF, vuN := 4, vuSt := .more })
      (fun s => (s.vuAcc, s.vuSt, s.out)) = some (0, .err, [.vuResult .err 0]) := by decide
/-- U8: a new value starts after DONE. -/
theorem test_vuDbyte_restart :
    after (exec (.vuDbyte 0xAC) { State.reset with vuAcc := 5, vuN := 0, vuSt := .done })
      (fun s => (s.vuAcc, s.vuN, s.vuSt)) = some (0x2C, 1, .more) := by decide
/-- F3. -/
theorem test_frameWrite :
    after (exec (.frameWrite 1 127 2 []) State.reset) (fun s => (s.txBusy, s.out)) =
      some (true, [.trWriteReq [0x54, 0xAB, 0xFF, 0x02, 0x00, 0x50, 0xD0]]) := by decide
/-- F10. -/
theorem test_frameWrite_invalid :
    after (exec (.frameWrite 0 128 2 []) State.reset) (fun s => (s.txBusy, s.fault, s.out)) =
      some (false, 0x10, [.frameWrDone .errInvalid]) := by decide
/-- F9, F11. -/
theorem test_trWdone :
    after (exec (.trWdone .errTransport) { State.reset with txBusy := true }) (fun s => (s.txBusy, s.out)) =
      some (false, [.frameWrDone .errTransport]) := by decide
theorem test_trWdone_refused : refusal (exec (.trWdone .ok) State.reset) = some .noWriteOutstanding := by decide
/-- X19. -/
theorem test_frameRead :
    after (exec .frameRead State.reset) (fun s => (s.rxArmed, s.fault)) = some (true, 0) := by decide
theorem test_frameRead_busy :
    after (exec .frameRead armed) (fun s => (s.rxArmed, s.fault)) = some (true, 0x04) := by decide
/-- X20, X21. -/
theorem test_trRdone :
    after (exec (.trRdone [0x54, 0xAB]) { armed with trRdPending := true }) (fun s => (s.trRdPending, s.inFifo)) =
      some (false, [0x54, 0xAB]) := by decide
theorem test_trRdone_too_long :
    refusal (exec (.trRdone (List.replicate 65 0)) { armed with trRdPending := true }) = some .chunkTooLong := by decide
/-- X18. -/
theorem test_trRerr :
    after (exec .trRerr { armed with trRdPending := true, rxState := .dst, rxRaw := [0x54, 0xAB, 0x01] })
      (fun s => (s.rxArmed, s.trRdPending, s.rxState, s.rxRaw, s.out)) =
      some (false, false, .hunt0, [], [.frameRdDone .errTransport none]) := by decide
theorem test_rxFetch :
    after (exec .rxFetch armed) (fun s => (s.trRdPending, s.out)) = some (true, [.trReadReq 64]) := by decide
/-- X7: the fifth length byte of an overlong length. -/
theorem test_rxByte_overlong :
    after (exec .rxByte
        { armed with
          rxState := .len, rxRaw := [0x54, 0xAB, 1, 2, 0x80, 0x80, 0x80, 0x80], rxVn := 4, inFifo := [0x80, 0x54] })
      (fun s => (s.rxState, s.rxRaw, s.inFifo, s.rxArmed)) = some (.hunt0, [], [0x54], true) := by
  decide
/-- X8 under FATAL: length 200 above MAX_PAYLOAD. -/
theorem test_rxByte_overflow :
    after (exec .rxByte
        { armed with
          rxState := .len, rxVn := 1, rxVacc := 0x48, inFifo := [0x01]
          cfg := { Config.tc with overflowPolicy := .fatal } })
      (fun s => (s.rxState, s.fault, s.rxArmed)) = some (.hunt0, 0x80, true) := by decide
/-- C8. -/
theorem test_chRead_parks :
    after (exec (.chRead 9 4) State.reset) (fun s => (slotAt s 0, s.out)) =
      some ({ Slot.reset with used := true, id := 9, prd := true, prdCap := 4 }, []) := by decide
/-- R213's example: three of "and more". -/
theorem test_chRead_some :
    after (exec (.chRead 9 3) (nine { Slot.reset with q := [0x61, 0x6E, 0x64, 0x20, 0x6D] }))
      (fun s => ((slotAt s 0).q, s.out)) = some ([0x20, 0x6D], [.chRdDone 9 .ok [0x61, 0x6E, 0x64]]) := by decide
/-- C9: the first write is kept. -/
theorem test_chWrite_busy :
    after (exec (.chWrite 9 [0x62]) (nine { Slot.reset with pwr := true, pwrData := [0x61] }))
      (fun s => ((slotAt s 0).pwrData, s.fault)) = some ([0x61], 0x02) := by decide
/-- C10. -/
theorem test_chWrite_empty :
    after (exec (.chWrite 9 []) State.reset) (fun s => (slotAt s 0, s.out)) =
      some ({ Slot.reset with used := true, id := 9 }, [.chWrDone 9 .ok 0]) := by decide
/-- C12. -/
theorem test_tunnelEmit :
    after (exec (.tunnelEmit 9 5) (nine { Slot.reset with pwr := true, pwrData := [0x68, 0x65, 0x6C, 0x6C, 0x6F] }))
      (fun s => ((slotAt s 0).pwr, s.out)) =
      some (false, [.emitData 9 [0x41, 0x09, 0x02, 0x68, 0x65], .chWrDone 9 .ok 2]) := by decide
theorem test_tunnelEmit_no_room :
    after (exec (.tunnelEmit 9 3) (nine { Slot.reset with pwr := true, pwrData := [0x68, 0x65] }))
      (fun s => ((slotAt s 0).pwr, s.out)) = some (true, [.emitData 9 []]) := by decide
/-- R270's example. -/
theorem test_reset :
    after (exec .reset { armed with trRdPending := true, fault := 0xFF }) (fun s => (s.rxArmed, s.trRdPending, s.fault)) =
      some (false, false, 0) := by decide
theorem test_statRead :
    after (exec .statRead { State.reset with wrongId := 1 }) (·.out) = some [.statValue 1] := by decide
theorem test_faultRead :
    after (exec .faultRead { State.reset with fault := 0x42 }) (fun s => (s.out, s.fault)) =
      some ([.faultValue 0x42], 0x42) := by decide
/-- D1 to D6: one record each. -/
theorem test_writeSingle :
    after (exec (.writeSingle .float32 7 [0, 0, 0x80, 0x3F]) State.reset) (·.out) =
      some [.dispatch 0x13 7 1 [0, 0, 0x80, 0x3F]] := by decide
theorem test_writeMultiple :
    after (exec (.writeMultiple .int16 16 2 [1, 0, 2, 0]) State.reset) (·.out) =
      some [.dispatch 0x15 16 2 [1, 0, 2, 0]] := by decide
theorem test_readSingle :
    after (exec (.readSingle .int8 1) State.reset) (·.out) = some [.dispatch 0x18 1 1 []] := by decide
theorem test_readMultiple :
    after (exec (.readMultiple .float32 10 2) State.reset) (·.out) = some [.dispatch 0x1F 10 2 []] := by decide
theorem test_replySingle :
    after (exec (.replySingle .float32 10 [0, 0, 0x80, 0x3F]) State.reset) (·.out) =
      some [.dispatch 0x23 10 1 [0, 0, 0x80, 0x3F]] := by decide
theorem test_writeError : after (exec (.writeError 2 0x76) State.reset) (·.out) = some [.dispatch 0x28 2 1 [0x76]] := by
  decide
/-- C3. -/
theorem test_tunnelC2s_parked :
    after (exec (.tunnelC2s 9 [0x68, 0x65, 0x6C, 0x6C, 0x6F]) (nine { Slot.reset with prd := true, prdCap := 3 }))
      (fun s => (slotAt s 0, s.out)) =
      some ({ Slot.reset with used := true, id := 9, q := [0x6C, 0x6F] }, [.chRdDone 9 .ok [0x68, 0x65, 0x6C]]) := by
  decide
/-- C4 under FATAL: tail drop at QUEUE_CAP. -/
theorem test_tunnelC2s_overflow :
    after (exec (.tunnelC2s 9 [1, 2, 3, 4])
        { nine { Slot.reset with q := List.replicate 14 0 } with cfg := { Config.tc with overflowPolicy := .fatal } })
      (fun s => ((slotAt s 0).q, s.fault)) = some (List.replicate 14 0 ++ [1, 2], 0x20) := by decide
/-- D12. -/
theorem test_tunnelS2c_skipped : after (exec (.tunnelS2c 9 [0x68, 0x69]) State.reset) id = some State.reset := by decide
/-- X1. -/
theorem test_frame :
    after (exec (.frame false 1 2 [0x00] [] 0x2803) armed) (fun s => (s.rxArmed, s.out)) =
      some (false, [.frameRdDone .ok (some ⟨false, 1, 2, [], true⟩)]) := by decide
/-- X10. -/
theorem test_frame_misaddressed :
    after (exec (.frame false 1 3 [0x03] [0x10, 0x02, 0x20] 0x4ADA) armed) (fun s => (s.wrongId, s.out)) =
      some (1, [.unknownFrame [0x54, 0xAB, 0x01, 0x03, 0x03, 0x10, 0x02, 0x20, 0xDA, 0x4A],
        .frameRdDone .ok (some ⟨false, 1, 3, [0x10, 0x02, 0x20], false⟩)]) := by decide

/-! ### The textual syntax (30_encoding.md R92: the rule's examples) -/

theorem test_asm_crcUpdate : Asm.assemble "CRC.UPDATE 0x54 ; one byte" = some (.crcUpdate 0x54) := by decide
theorem test_asm_frameWrite :
    Asm.assemble "FRAME.WRITE rr=0, src=1, dst=2, payload=[]" = some (.frameWrite 0 1 2 []) := by decide
theorem test_asm_chRead : Asm.assemble "CH.READ ch=9, cap=16" = some (.chRead 9 16) := by decide
theorem test_asm_trRdone :
    Asm.assemble "TR.RDONE [54 AB 01 02 00 03 28]" = some (.trRdone [0x54, 0xAB, 1, 2, 0, 3, 0x28]) := by decide

theorem test_asm_crcBlock : assembleLine "CRC.BLOCK [54 AB]" = some [.crcInit, .crcUpdate 0x54, .crcUpdate 0xAB] := by
  decide

/-! ### A table word is what the next step runs -/

theorem test_fetch_crcUpdate :
    after (step (State.reset.withFetchWord 8 0x02)) (·.crcReg) = some 0xE1F0 := by decide
theorem test_fetch_tunnelC2s :
    after (step (State.reset.withFetchWord 8 0x40)) (fun s => ((slotAt s 0).used, s.rxArmed)) = some (true, false) := by
  decide

/-! ### Witnesses: each statement with hypotheses has a state and operands that meet them -/

/-- A small configuration under FATAL. -/
def fatal : Config := { Config.tc with overflowPolicy := .fatal, numChannelSlots := 2, queueCap := 4, writeMax := 2 }

/-- Reset, armed, with these bytes in `in_fifo`. -/
def fed (bytes : List Byte) : State := { State.init fatal with rxArmed := true, inFifo := bytes }

/-- A receiver in a given state of its table, with these bytes in `in_fifo`. -/
def inState (st : RxState) (bytes : List Byte) : State := { fed bytes with rxState := st }

/-- The receiver has taken all but the last byte of the frame of 95_test_vectors.md S1. -/
def lastByte : State :=
  { fed [0x28] with
    rxState := .crc1, rxRaw := [0x54, 0xAB, 1, 2, 0, 3], rxSrc := 1, rxDst := 2, rxCrc := 0x2803, rxCrcLo := 3 }

/-- The same for a frame with the payload `40 09 01 61`; nothing else is to come. -/
def lastByteTunnel : State :=
  { fed [0xDD] with
    rxState := .crc1, rxRaw := [0x54, 0xAB, 1, 2, 4, 0x40, 9, 1, 0x61, 0x60], rxPay := [0x40, 9, 1, 0x61], rxLen := 4
    rxSrc := 1, rxDst := 2, rxCrc := 0xDD60, rxCrcLo := 0x60 }

/-- Every slot belongs to a channel. -/
def full : State :=
  { State.init fatal with slots := [{ Slot.reset with used := true, id := 1 }, { Slot.reset with used := true, id := 2 }] }

theorem witness_DecodeOfEncode :
    (Instr.frame true 127 255 [0x80, 0x00] [] 0xFFFF).wf = true ∧ (Instr.writeMultiple .int32 7 0 []).wf = true ∧
      (Instr.frameWrite 255 0xFFFFFFFF 0 [0x54]).wf = true ∧ (Instr.trWdone .errTransport).wf = true := by decide

theorem witness_DecodedBytes :
    Place.wire ≠ .payload ∧
      decode .wire [0x54, 0xAB, 0xFF, 0x80, 0x80, 0x00, 0x34, 0x12] =
        .ok (.frame true 127 0x80 [0x80, 0x00] [] 0x1234) [] ∧
      decode .trace [0x81, 0x01] = .ok .rxByte [0x01] ∧ decode .command [0x12] = .ok .frameRead [] := by decide

theorem witness_VaruintRoundTripIsMinimal :
    vuParse [0x80, 0x00] = .ok 0 [] ∧ vuParse [0xFF, 0xFF, 0xFF, 0xFF, 0x0F] = .ok 0xFFFFFFFF [] := by decide

theorem witness_VaruintValueIsBase128 :
    vuParse [0x7F, 0x01] = .ok 127 [0x01] ∧ vuParse [0x80, 0x80, 0x80, 0x80, 0x0F] = .ok 0xF0000000 [] := by decide

theorem witness_VaruintFifthByteAndTruncation :
    (0x80 : Byte).msb = true ∧ 16 ≤ (0x10 : Byte).toNat ∧ (0x0F : Byte).toNat < 16 ∧
      (∀ b ∈ ([0x80, 0xFF, 0x80, 0x80] : List Byte), b.msb = true) := by decide

theorem witness_VuDbyteFeedsTheDecoder :
    vuStep 0 0 0x80 = (0, 1, .more) ∧ vuStep 0x2C 1 0x02 = (0, 0, .done 300) ∧ vuStep 0 4 0x10 = (0, 0, .err) := by decide

theorem witness_OneByteErrorChangesTheCrc : (0x00 : Byte) ≠ 0x80 := by decide

theorem witness_FrameWriteCases :
    State.reset.txBusy = false ∧ (1 : Byte).toNat ≤ 1 ∧ (127 : Word32).toNat ≤ 127 ∧ (255 : Word32).toNat ≤ 255 ∧
      (List.replicate 127 (0 : Byte)).length ≤ State.reset.cfg.maxPayload ∧
      { State.reset with txBusy := true }.txBusy = true ∧ 1 < (2 : Byte).toNat ∧ 127 < (128 : Word32).toNat ∧
      255 < (256 : Word32).toNat ∧ State.reset.cfg.maxPayload < (List.replicate 128 (0 : Byte)).length := by decide

theorem witness_FrameBytesLayout :
    (0 : Byte).toNat ≤ 1 ∧ (0 : Word32).toNat ≤ 127 ∧ (0x80 : Word32).toNat ≤ 255 ∧
      (List.replicate 128 (0 : Byte)).length < 2 ^ 32 := by decide

theorem witness_TrWdoneCompletesTheWrite :
    { State.reset with txBusy := true }.txBusy = true ∧ State.reset.txBusy = false ∧ 1 < (2 : Byte).toNat := by decide

theorem witness_FrameReadArms :
    State.reset.rxArmed = false ∧ State.reset.inFifo = [] ∧ State.reset.trRdPending = false ∧ armed.rxArmed = true ∧
      { State.reset with inFifo := [0x54] }.inFifo ≠ [] := by decide

theorem witness_RxFetchAsksForAChunk :
    armed.rxArmed = true ∧ armed.inFifo = [] ∧ armed.trRdPending = false ∧ State.reset.rxArmed = false ∧
      (fed [0x54]).inFifo ≠ [] ∧ { armed with trRdPending := true }.trRdPending = true := by decide

theorem witness_TransportReadAnswers :
    { armed with trRdPending := true }.trRdPending = true ∧ (List.replicate 64 (0 : Byte)).length ≤ armed.cfg.rxChunkMax ∧
      armed.cfg.rxChunkMax < (List.replicate 65 (0 : Byte)).length ∧ armed.trRdPending = false := by decide

theorem witness_RxByteTableHead :
    ∀ st ∈ [RxState.hunt0, .hunt1, .src, .dst], ∀ b ∈ ([0x54, 0xAB, 0x00] : List Byte),
      (inState st [b]).rxArmed = true ∧ (inState st [b]).inFifo = b :: [] ∧ (inState st [b]).rxState = st := by decide

theorem witness_RxByteTableBody :
    (∀ st ∈ [RxState.len, .payload, .crc0, .crc1], (inState st [0x28]).rxArmed = true ∧
        (inState st [0x28]).inFifo = 0x28 :: [] ∧ (inState st [0x28]).rxState = st) ∧
      vuStep 0 0 0xFF = (127, 1, .more) ∧ vuStep 0 4 0x80 = (0, 0, .err) ∧
      vuStep 0 0 0x7F = (0, 0, .done 127) ∧ (127 : Word32).toNat ≤ fatal.maxPayload ∧
      vuStep 0 1 0x01 = (0, 0, .done 128) ∧ fatal.maxPayload < (128 : Word32).toNat ∧
      (0x28 : Byte) ++ lastByte.rxCrcLo = lastByte.rxCrc ∧ lastByte.inFifo = 0x28 :: [] ∧
      (0x29 : Byte) ++ lastByte.rxCrcLo ≠ lastByte.rxCrc := by decide

theorem witness_LengthErrorsResyncAtOnce :
    (fed [0x54, 0xAB, 1, 2, 0x80, 0x01]).rxArmed = true ∧ (fed [0x54, 0xAB, 1, 2, 0x80, 0x01]).rxState = .hunt0 ∧
      (fed [0x54, 0xAB, 1, 2, 0x80, 0x01]).inFifo = [0x54, 0xAB, 1, 2] ++ [0x80, 0x01] ++ [] ∧
      vuParse [0x80, 0x01] = .ok 128 [] ∧ fatal.maxPayload < (128 : Word32).toNat ∧
      vuParse [0x80, 0x80, 0x80, 0x80, 0x10] = .err .badVaruint := by decide

theorem witness_FrameWithWrongCrcIsDropped :
    armed.rxArmed = true ∧ armed.rxState = .hunt0 ∧ (Instr.frame false 1 2 [0x00] [] 0x2903).wf = true ∧
      ([] : List Byte).length ≤ armed.cfg.maxPayload ∧
      (0x2903 : Word16) ≠ crc16 ([0x54, 0xAB, flagByte false 1, 2] ++ [0x00] ++ []) := by decide

theorem witness_FrameWithOneByteErrorIsRejected :
    armed.rxArmed = true ∧ armed.rxState = .hunt0 ∧ (Instr.frame false 1 2 [0x00] [] 0x2803).wf = true ∧
      (0x2803 : Word16) = crc16 ([0x54, 0xAB, flagByte false 1, 2] ++ [0x00] ++ []) ∧
      encodeFrame false 1 2 [0x00] [] 0x2803 = [0x54, 0xAB] ++ [0x01] ++ [0x02, 0x00, 0x03, 0x28] ∧
      encodeFrame true 1 2 [0x00] [] 0x2803 = [0x54, 0xAB] ++ [0x81] ++ [0x02, 0x00, 0x03, 0x28] ∧
      (0x01 : Byte) ≠ 0x81 := by decide

theorem witness_ValidFrameIsDelivered :
    armed.rxArmed = true ∧ armed.rxState = .hunt0 ∧ (Instr.frame false 1 2 [0x00] [] 0x2803).wf = true ∧
      (0x2803 : Word16) = crc16 ([0x54, 0xAB, flagByte false 1, 2] ++ [0x00] ++ []) ∧
      (2 : Byte) = armed.cfg.ownId.setWidth 8 ∧ (0xFF : Byte) ≠ armed.cfg.ownId.setWidth 8 ∧
      (Instr.frame false 1 0xFF [0x00] [] 0x4D9E).wf = true ∧
      (0x4D9E : Word16) = crc16 ([0x54, 0xAB, flagByte false 1, 0xFF] ++ [0x00] ++ []) := by decide

theorem lastByte_rawOk : RawOk lastByte := ⟨[0x00], by decide⟩

theorem lastByte_rxOk : RxOk lastByte := ⟨by decide, by decide, by decide⟩

theorem witness_DeliveredFrameWasOnTheWire :
    ∃ t : State, RawOk lastByte ∧ exec .rxByte lastByte = .next t ∧ t.rxArmed = false ∧ RxOk lastByte :=
  ⟨_, lastByte_rawOk, rfl, by decide, lastByte_rxOk⟩

theorem witness_RawBytesAndCrcAreKept : ∃ t : State, RawOk lastByte ∧ step lastByte = .next t :=
  ⟨_, lastByte_rawOk, rfl⟩

theorem witness_ChunkBoundaryIndependence :
    (fed []).rxArmed = true ∧ (fed []).inFifo = [] ∧ (fed []).trRdPending = false ∧
      chunksOk fatal [[0x54], [0xAB, 1, 2, 0], [3, 0x28]] ∧ chunksOk fatal [[0x54, 0xAB, 1], [2, 0, 3, 0x28]] ∧
      [[0x54], [0xAB, 1, 2, 0], [3, 0x28]].flatten = ([[0x54, 0xAB, 1], [2, 0, 3, 0x28]].flatten : List Byte) ∧
      after (feedChunks [[0x54], [0xAB, 1, 2, 0], [3, 0x28]] (fed [])) (·.fault) = some 0 := by decide

theorem witness_RoundTripInAnyChunking :
    (fed []).cfg.legal ∧ (fed []).rxArmed = true ∧ (fed []).rxState = .hunt0 ∧ (fed []).inFifo = [] ∧
      (fed []).trRdPending = false ∧ chunksOk fatal [[0x54], [0xAB, 1, 2, 0], [3, 0x28]] ∧
      [[0x54], [0xAB, 1, 2, 0], [3, 0x28]].flatten = frameBytes 0 1 2 [] ∧
      after (feedChunks [[0x54], [0xAB, 1, 2, 0], [3, 0x28]] (fed [])) (·.fault) = some 0 := by decide

theorem witness_UnarmedReceiverIsStill :
    ∃ s t : State, s.rxArmed = false ∧ s.trRdPending = false ∧ notReset s = true ∧ step s = .next t ∧ s.inFifo ≠ [] :=
  ⟨{ State.reset with port := [0x02, 0x54], inFifo := [0x54] }, _, by decide, by decide, by decide, rfl, by decide⟩

theorem witness_WalkHandlesSubframesInOrderAndStops :
    (∀ sub ∈ [Subframe.readSingle .int8 1, .tunnelC2s 9 [0x61]], sub.wf = true) ∧
      (∀ part ∈ [(Subframe.readSingle .int8 1, [0x18, 0x81, 0x00]), (.tunnelC2s 9 [0x61], [0x40, 9, 0x81, 0, 0x61])],
        Spells part.1 part.2) ∧
      (∃ e, parseSubframe [0x24, 0x18, 0x02] = .err e) ∧ ∃ e, parseSubframe [] = .err e :=
  ⟨by decide,
    List.forall_mem_cons.2 ⟨⟨[0x81, 0x00], by decide⟩, List.forall_mem_cons.2 ⟨⟨[9], [0x81, 0], 1, by decide⟩, by simp⟩⟩,
    ⟨.unassignedTag 0x24, by decide⟩, ⟨.truncated, by decide⟩⟩

/-- D13. -/
theorem test_walk_nonminimal :
    (walk [0x18, 0x81, 0x00] State.reset).out = [.dispatch 0x18 1 1 []] := by decide

theorem witness_SubframeParsesExactlyItsSpellings :
    Spells (.writeMultiple .int16 2 1 [7, 8]) [0x15, 0x82, 0x00, 0x01, 7, 8] ∧
      decode .payload [0x15, 0x82, 0x00, 0x01, 7, 8, 9] = .ok (.writeMultiple .int16 2 1 [7, 8]) [9] :=
  ⟨⟨[0x82, 0x00], [0x01], by decide⟩, by decide⟩

theorem witness_BytesThatStopTheWalk :
    ([0x00] : List Byte).length < (0xFFFFFFFF : Word32).toNat * scalarSize .int8 ∧
      ([0, 0, 0] : List Byte).length < (1 : Word32).toNat * scalarSize .int32 := by decide

theorem witness_TunnelDataReachesItsChannel :
    State.reset.cfg.role = .server ∧ findSlot 9 (nine Slot.reset) = some 0 ∧
      (slotAt (nine Slot.reset) 0).prd = false ∧
      (slotAt (nine { Slot.reset with prd := true, prdCap := 1 }) 0).prd = true ∧
      findSlot 9 (nine { Slot.reset with prd := true, prdCap := 1 }) = some 0 ∧
      (State.init { Config.tc with role := .client }).cfg.role = .client := by decide

theorem witness_OtherChannelsAreNotTouched :
    ∃ sl : Slot, (nine Slot.reset).slots[0]? = some sl ∧ sl.used = true ∧
      subframes [0x40, 8, 1, 0x61] = [.tunnelC2s 8 [0x61]] ∧
      ∀ d, Subframe.tunnelC2s 8 [0x61] ≠ .tunnelC2s sl.id d :=
  ⟨{ Slot.reset with used := true, id := 9 }, by decide, by decide, by decide, by simp⟩

theorem lastByteTunnel_inv : lastByteTunnel.Inv :=
  ⟨by decide, by decide, ⟨by decide, by decide, by decide⟩, by decide⟩

theorem witness_FragmentationTransparency :
    ∃ t : State, lastByteTunnel.Inv ∧ lastByteTunnel.cfg.overflowPolicy = .fatal ∧
      resetFree 1 lastByteTunnel = true ∧ overflowFree 1 lastByteTunnel = true ∧
      runSteps 1 lastByteTunnel = .next t ∧ t.fault = 0 ∧ arrived 9 1 lastByteTunnel = [0x61] :=
  ⟨_, lastByteTunnel_inv, by decide, by decide, by decide, rfl, by decide, by decide⟩

/-- The same block under DROP. -/
def lastByteTunnelDrop : State := { lastByteTunnel with cfg := { fatal with overflowPolicy := .drop } }

theorem witness_FragmentationTransparency_drop :
    ∃ t : State, lastByteTunnelDrop.Inv ∧ resetFree 1 lastByteTunnelDrop = true ∧
      overflowFree 1 lastByteTunnelDrop = true ∧ runSteps 1 lastByteTunnelDrop = .next t ∧ t.fault = 0 ∧
      arrived 9 1 lastByteTunnelDrop = [0x61] :=
  ⟨_, ⟨by decide, by decide, ⟨by decide, by decide, by decide⟩, by decide⟩, by decide, by decide, rfl, by decide,
    by decide⟩

/-- The premise of R217 is false of a run that loses bytes, though under DROP no fault bit tells. -/
theorem test_overflowFree_drop :
    overflowFree 1 { lastByteTunnelDrop with
      slots := [{ Slot.reset with used := true, id := 9, q := [1, 2, 3, 4] }, Slot.reset] } = false ∧
    overflowFree 1 { lastByteTunnelDrop with slots := full.slots } = false := by decide

theorem witness_EmittedSubframeReachesThePeer :
    ([] : List Byte).length < 2 ^ 32 ∧ ({ Config.tc with role := .client } : Config).role ≠ Config.tc.role := by decide

theorem witness_ChReadCases :
    (∀ sl ∈ [Slot.reset, { Slot.reset with prd := true, prdCap := 1 }, { Slot.reset with q := [0x61] }],
        findSlot 9 (nine sl) = some 0) ∧
      (slotAt (nine { Slot.reset with prd := true, prdCap := 1 }) 0).prd = true ∧
      (slotAt (nine Slot.reset) 0).prd = false ∧ (slotAt (nine Slot.reset) 0).q = [] ∧
      (slotAt (nine { Slot.reset with q := [0x61] }) 0).q ≠ [] ∧ (1 : Word32) ≠ 0 := by decide

theorem witness_ChWriteCases :
    (∀ sl ∈ [Slot.reset, { Slot.reset with pwr := true, pwrData := [0x61] }], findSlot 9 (nine sl) = some 0) ∧
      (slotAt (nine { Slot.reset with pwr := true, pwrData := [0x61] }) 0).pwr = true ∧
      (slotAt (nine Slot.reset) 0).pwr = false := by decide

theorem witness_TunnelEmitCases :
    findSlot 9 State.reset = none ∧ findSlot 9 (nine { Slot.reset with pwr := true, pwrData := [0x61] }) = some 0 ∧
      (slotAt (nine Slot.reset) 0).pwr = false ∧ emitSize 9 1 3 = 0 ∧ emitSize 9 1 4 = 1 := by decide

theorem witness_EmitSizeIsTheLargest :
    2 ≤ 5 ∧ 1 + vuLen (9 : Word32).toNat + vuLen 2 + 2 ≤ 5 ∧ ¬ 1 + vuLen (9 : Word32).toNat + vuLen 3 + 3 ≤ 5 := by
  decide

theorem witness_FirstReferenceClaimsTheLeastFreeSlot :
    findSlot 8 (nine Slot.reset) = none ∧ freeSlot (nine Slot.reset) = some 1 := by decide

theorem witness_NoSlotLeft :
    findSlot 9 full = none ∧ freeSlot full = none ∧ full.cfg.role = .server ∧
      { full with cfg := { fatal with role := .client } }.cfg.role = .client := by decide

theorem witness_StatusReads :
    (3 : Byte) ≠ State.reset.cfg.ownId.setWidth 8 ∧ { State.reset with wrongId := 4294967295 }.wrongId = 4294967295 ∧
      ({ Config.tc with ownId := 3 } : Config).ownId ≠ 2 ∧ ({ Config.tc with ownId := 3 } : Config).legal := by decide

theorem witness_FaultBitsAreSticky :
    ∃ s t : State, notReset s = true ∧ step s = .next t ∧ s.fault ≠ 0 :=
  ⟨{ armed with port := [0x12], sched := [.env], fault := 0x10 }, _, by decide, rfl, by decide⟩

theorem witness_ConfigurationNeverChanges : ∃ t : State, step { State.reset with port := [0x30] } = .next t := ⟨_, rfl⟩

theorem witness_WrongIdIsWrittenByTheFilterOnly :
    ∃ t : State, notReset { lastByte with rxDst := 3 } = true ∧ step { lastByte with rxDst := 3 } = .next t ∧
      t.wrongId = 1 ∧ DeliversElsewhere { lastByte with rxDst := 3 } { lastByte with rxDst := 3 } 0x28 [] :=
  ⟨_, by decide, rfl, by decide, by decide⟩

theorem witness_CrcUnitAndReceiverAreSeparate :
    ∃ t u : State, exec (.crcUpdate 0x54) lastByte = .next t ∧ exec .rxByte lastByte = .next u :=
  ⟨_, _, rfl, rfl⟩

theorem witness_EventsAreOnlyAppended : ∃ t : State, exec .rxByte lastByte = .next t ∧ t.out ≠ [] := ⟨_, rfl, by decide⟩

theorem witness_RefusedExactlyWhereTheSpecSays :
    (0x80 : Byte) ∉ ([0x01, 0x02, 0x03, 0x08, 0x09, 0x0A, 0x10, 0x11, 0x12, 0x13, 0x14, 0x20, 0x21, 0x22, 0x30, 0x31, 0x32] :
      List Byte) := by decide

theorem witness_StepRunsTheDecodedRecord :
    decodeCommand [0x02, 0x54, 0x31] = .ok (.crcUpdate 0x54) [0x31] ∧
      internalStep { State.reset with port := [0x02, 0x54, 0x31] } = none := by decide

theorem witness_StepTakesEnabledInternalSteps :
    armed.sched = [] ∧ armed.rxArmed = true ∧ armed.inFifo = [] ∧ armed.trRdPending = false ∧ (fed [0x54]).inFifo ≠ [] ∧
      State.reset.sched = [] ∧ State.reset.port = [] ∧ internalStep State.reset = none := by decide

theorem witness_FrameTakesOneRxByteStepPerByte :
    armed.rxArmed = true ∧ armed.rxState = .hunt0 ∧
      (Instr.frame false 1 2 [0x00] [] (crc16 ([0x54, 0xAB, flagByte false 1, 2] ++ [0x00] ++ []))).wf = true := by decide

theorem witness_InvariantIsKept : ∃ t : State, lastByteTunnel.Inv ∧ step lastByteTunnel = .next t :=
  ⟨_, lastByteTunnel_inv, rfl⟩

theorem witness_ConstructionMeetsTheInvariants : Config.tc.legal ∧ fatal.legal := by decide

theorem witness_ReachableStates :
    ∃ t : State, fatal.legal ∧
      runSteps 2 { State.init fatal with port := [0x12, 0x20, 9, 0, 0, 0, 4, 0, 0, 0], sched := [.env, .env] } = .next t ∧
      t.fault = 0 ∧ (slotAt t 0).prd = true := ⟨_, by decide, rfl, by decide, by decide⟩

end Sys2Proof.Tests
end

section
/-! Which move `step` takes (00_scope.md R17): the block's internal steps, the turns, and what a move leaves of the
state before its instruction runs. -/

namespace Sys2Proof.Machine

/-! ### The block's internal steps -/

theorem internalStep_of_fetch {s : State} (ha : s.rxArmed = true) (hf : s.inFifo = []) (hp : s.trRdPending = false) :
    internalStep s = some .rxFetch := by
  simp [internalStep, rxFetchEnabled, ha, hf, hp]

theorem internalStep_of_byte {s : State} (ha : s.rxArmed = true) (hf : s.inFifo ≠ []) :
    internalStep s = some .rxByte := by
  simp [internalStep, rxFetchEnabled, rxByteEnabled, ha, hf]

/-- The turns have no part in which internal step is enabled. -/
@[simp] theorem internalStep_sched (s : State) (sched : List Turn) :
    internalStep { s with sched := sched } = internalStep s := rfl

/-! ### The turns -/

theorem blockTurn_of_some {s : State} {i : Instr} (h : internalStep s = some i) : blockTurn s = .run i s := by
  simp [blockTurn, h]

theorem blockTurn_of_none {s : State} (h : internalStep s = none) :
    blockTurn s = if s.port = [] then .idle s else presentRecord s := by
  simp [blockTurn, h]

theorem nextMove_of_nil {s : State} (h : s.sched = []) : nextMove s = blockTurn s := by
  simp [nextMove, h]

theorem nextMove_of_block {s : State} {sched : List Turn} (h : s.sched = .block :: sched) :
    nextMove s = blockTurn { s with sched := sched } := by
  simp [nextMove, h]

theorem nextMove_of_env {s : State} {sched : List Turn} (h : s.sched = .env :: sched) :
    nextMove s = envTurn { s with sched := sched } := by
  simp [nextMove, h]

/-! ### What a move leaves of the state -/

/-- `t` is `s` but for what is waiting on the port and the turns still to come. -/
abbrev PortSched (s t : State) : Prop := t = { s with port := t.port, sched := t.sched }

/-- The state that a move hands on, if it hands one on, is the given one but for the port and the turns. -/
def Move.Keeps (s : State) : Move → Prop
  | .run _ s' => PortSched s s'
  | .refuse _ => True
  | .idle s' => PortSched s s'

theorem Move.Keeps.of_sched {s : State} {sched : List Turn} {m : Move} (h : m.Keeps { s with sched := sched }) :
    m.Keeps s := by
  cases m with
  | run i s' => exact h
  | refuse r => trivial
  | idle s' => exact h

theorem presentRecord_keeps (s : State) : (presentRecord s).Keeps s := by
  unfold presentRecord
  split
  · rfl
  · trivial

theorem blockTurn_keeps (s : State) : (blockTurn s).Keeps s := by
  cases h : internalStep s with
  | some i => rw [blockTurn_of_some h]; rfl
  | none =>
    rw [blockTurn_of_none h]
    split
    · rfl
    · exact presentRecord_keeps s

theorem envTurn_keeps (s : State) : (envTurn s).Keeps s := by
  unfold envTurn
  split
  · exact blockTurn_keeps s
  · exact presentRecord_keeps s

theorem nextMove_keeps (s : State) : (nextMove s).Keeps s := by
  cases h : s.sched with
  | nil => rw [nextMove_of_nil h]; exact blockTurn_keeps s
  | cons turn sched =>
    cases turn with
    | env => rw [nextMove_of_env h]; exact (envTurn_keeps _).of_sched
    | block => rw [nextMove_of_block h]; exact (blockTurn_keeps _).of_sched

/-! ### `step` -/

theorem step_of_run {s s' : State} {i : Instr} (h : nextMove s = .run i s') : step s = exec i s' := by
  simp [step, h]

theorem step_of_idle {s s' : State} (h : nextMove s = .idle s') : step s = .next s' := by
  simp [step, h]

/-- All that a step with a next state can be: an instruction run from the given state but for the port and the turns, or
a wait (60_exceptions.md R257). -/
theorem step_eq_next {s t : State} (h : step s = .next t) :
    (∃ (i : Instr) (s' : State), nextMove s = .run i s' ∧ PortSched s s' ∧ exec i s' = .next t) ∨
      (nextMove s = .idle t ∧ PortSched s t) := by
  have hk := nextMove_keeps s
  cases hm : nextMove s with
  | run i s' =>
    rw [hm] at hk
    exact .inl ⟨i, s', rfl, hk, by rwa [step_of_run hm] at h⟩
  | refuse r => simp [step, hm] at h
  | idle s' =>
    rw [hm] at hk
    rw [step_of_idle hm] at h
    cases h
    exact .inr ⟨rfl, hk⟩

theorem step_of_nil_of_internal {s : State} {i : Instr} (hs : s.sched = []) (h : internalStep s = some i) :
    step s = exec i s :=
  step_of_run ((nextMove_of_nil hs).trans (blockTurn_of_some h))

theorem step_of_block_of_internal {s : State} {i : Instr} {sched : List Turn} (hs : s.sched = .block :: sched)
    (h : internalStep s = some i) : step s = exec i { s with sched := sched } :=
  step_of_run ((nextMove_of_block hs).trans (blockTurn_of_some ((internalStep_sched s sched).trans h)))

theorem step_of_nil_of_none {s : State} (hs : s.sched = []) (hp : s.port = []) (h : internalStep s = none) :
    step s = .next s :=
  step_of_idle (by rw [nextMove_of_nil hs, blockTurn_of_none h, if_pos hp])

/-- Settles O55: on the block's turn `nextMove` is the enabled internal step, and with nothing enabled and nothing
presented it is the wait. -/
theorem stepTakesEnabledInternalSteps : Obligations.StepTakesEnabledInternalSteps :=
  ⟨fun _ hs =>
      ⟨fun ha hf hp => step_of_nil_of_internal hs (internalStep_of_fetch ha hf hp),
        fun ha hf => step_of_nil_of_internal hs (internalStep_of_byte ha hf)⟩,
    fun _ _ hs =>
      ⟨fun ha hf hp => step_of_block_of_internal hs (internalStep_of_fetch ha hf hp),
        fun ha hf => step_of_block_of_internal hs (internalStep_of_byte ha hf)⟩,
    fun _ hs hp h => step_of_nil_of_none hs hp h⟩

end Sys2Proof.Machine
end

section
/-! What every instruction keeps: the configuration (00_scope.md R6) and the events already emitted (20_memory.md R62,
60_exceptions.md R241). Both are shown at once, operation by operation. -/

namespace Sys2Proof.Machine

/-! ### The relation -/

/-- `t` comes after `s`: the same configuration, and the events of `s` followed by new ones. -/
structure Extends (s t : State) : Prop where
  cfg_eq : t.cfg = s.cfg
  out_eq : ∃ es : List Event, t.out = s.out ++ es

namespace Extends

/-- An update of other fields: for a record update both equations are `rfl`. -/
theorem of_eq {s t : State} (hc : t.cfg = s.cfg := by rfl) (ho : t.out = s.out := by rfl) : Extends s t :=
  ⟨hc, [], by rw [ho, List.append_nil]⟩

theorem refl (s : State) : Extends s s := of_eq

theorem trans {s t u : State} (h : Extends s t) (k : Extends t u) : Extends s u := by
  obtain ⟨es, hes⟩ := h.out_eq
  obtain ⟨fs, hfs⟩ := k.out_eq
  exact ⟨k.cfg_eq.trans h.cfg_eq, es ++ fs, by rw [hfs, hes, List.append_assoc]⟩

theorem emit {s t : State} (h : Extends s t) (e : Event) : Extends s (emit e t) :=
  h.trans ⟨rfl, [e], rfl⟩

end Extends

/-! ### The shared operations and the channels -/

theorem raiseFault_extends (b : FaultBit) (s : State) : Extends s (raiseFault b s) := .of_eq

theorem raiseIfFatal_extends (b : FaultBit) (s : State) : Extends s (raiseIfFatal b s) := .of_eq (by simp) (by simp)

theorem setSlot_extends (i : Nat) (sl : Slot) (s : State) : Extends s (setSlot i sl s) := .of_eq

theorem rxResync_extends (s : State) : Extends s (rxResync s) := .of_eq

theorem queueIn_extends (i : Nat) (d : List Byte) (s : State) : Extends s (queueIn i d s) := by
  unfold queueIn
  dsimp only
  split
  · exact (raiseIfFatal_extends ..).trans (setSlot_extends ..)
  · exact setSlot_extends ..

theorem slotLookup_extends (ch : Word32) (create : Bool) (s : State) : Extends s (slotLookup ch create s).2 := by
  obtain ⟨i, -, h⟩ | ⟨-, -, i, -, h⟩ | ⟨-, -, h⟩ := slotLookup_cases ch create s <;> rw [h]
  · exact .refl s
  · exact setSlot_extends ..
  · exact .refl s

theorem chReadSlot_extends (i : Nat) (ch cap : Word32) (s : State) : Extends s (chReadSlot i ch cap s) := by
  unfold chReadSlot
  split
  · exact raiseFault_extends ..
  split
  · exact (Extends.refl s).emit _
  split
  · exact (setSlot_extends ..).emit _
  · exact setSlot_extends ..

theorem chWriteSlot_extends (i : Nat) (ch : Word32) (data : List Byte) (s : State) :
    Extends s (chWriteSlot i ch data s) := by
  unfold chWriteSlot
  split
  · exact raiseFault_extends ..
  split
  · exact (Extends.refl s).emit _
  · exact setSlot_extends ..

theorem tunnelEmitSlot_extends (i : Nat) (ch space : Word32) (s : State) :
    Extends s (tunnelEmitSlot i ch space s) := by
  unfold tunnelEmitSlot
  split
  · exact (Extends.refl s).emit _
  dsimp only
  split
  · exact (Extends.refl s).emit _
  · exact ((setSlot_extends ..).emit _).emit _

/-! ### The demultiplexer -/

theorem tunnelRxSlot_extends (i : Nat) (ch : Word32) (d : List Byte) (s : State) :
    Extends s (tunnelRxSlot i ch d s) := by
  unfold tunnelRxSlot
  split
  · exact .refl s
  split
  · dsimp only
    split
    · exact (setSlot_extends ..).emit _
    · exact ((setSlot_extends ..).emit _).trans (queueIn_extends ..)
  · exact queueIn_extends i d s

theorem tunnelRx_extends (ch : Word32) (d : List Byte) (s : State) : Extends s (tunnelRx ch d s) := by
  have hl := slotLookup_extends ch true s
  unfold tunnelRx
  split
  · next h =>
    rw [h] at hl
    exact hl.trans (raiseIfFatal_extends ..)
  · next h =>
    rw [h] at hl
    exact hl.trans (tunnelRxSlot_extends ..)

theorem handleTunnel_extends (tag : Byte) (ch : Word32) (d : List Byte) (s : State) :
    Extends s (handleTunnel tag ch d s) := by
  unfold handleTunnel
  split
  · exact tunnelRx_extends ch d s
  · exact .refl s

theorem handleSubframe_extends (sub : Subframe) (s : State) : Extends s (handleSubframe sub s) := by
  cases sub with
  | tunnelC2s ch d => exact handleTunnel_extends 0x40 ch d s
  | tunnelS2c ch d => exact handleTunnel_extends 0x41 ch d s
  | _ => exact (Extends.refl s).emit _

theorem walkFrom_extends (n : Nat) (p : List Byte) (s : State) : Extends s (walkFrom n p s) := by
  induction n generalizing p s with
  | zero => exact .refl s
  | succ n ih =>
    unfold walkFrom
    split
    · exact .refl s
    split
    · exact (handleSubframe_extends _ s).trans (ih ..)
    · exact .refl s

theorem demuxFrame_extends (dst : Byte) (p raw : List Byte) (s : State) : Extends s (demuxFrame dst p raw s) := by
  unfold demuxFrame
  split
  · exact walkFrom_extends ..
  · exact Extends.emit .of_eq _

/-! ### The receiver -/

theorem rxDeliver_extends (s : State) : Extends s (rxDeliver s) :=
  .emit (.trans .of_eq (demuxFrame_extends ..)) _

theorem rxHunt0_extends (b : Byte) (s : State) : Extends s (rxHunt0 b s) := by
  unfold rxHunt0
  split <;> exact .of_eq

theorem rxHunt1_extends (b : Byte) (s : State) : Extends s (rxHunt1 b s) := by
  unfold rxHunt1
  split
  · exact .of_eq
  split <;> exact .of_eq

theorem rxGotLen_extends (v : Word32) (s : State) : Extends s (rxGotLen v s) := by
  unfold rxGotLen
  split
  · exact (raiseIfFatal_extends ..).trans (rxResync_extends _)
  · exact .of_eq

theorem rxTakeLen_extends (b : Byte) (s : State) : Extends s (rxTakeLen b s) := by
  unfold rxTakeLen
  split
  · exact .of_eq
  · exact .of_eq
  · exact .trans .of_eq (rxGotLen_extends ..)

theorem rxTakeCrc1_extends (b : Byte) (s : State) : Extends s (rxTakeCrc1 b s) := by
  unfold rxTakeCrc1
  split
  · exact .trans .of_eq (rxDeliver_extends _)
  · exact .of_eq

theorem rxTake_extends (b : Byte) (s : State) : Extends s (rxTake b s) := by
  cases h : s.rxState with
  | hunt0 => rw [rxTake_hunt0 b s h]; exact rxHunt0_extends b s
  | hunt1 => rw [rxTake_hunt1 b s h]; exact rxHunt1_extends b s
  | src => rw [rxTake_src b s h]; exact .of_eq
  | dst => rw [rxTake_dst b s h]; exact .of_eq
  | len => rw [rxTake_len b s h]; exact rxTakeLen_extends b s
  | payload => rw [rxTake_payload b s h]; exact .of_eq
  | crc0 => rw [rxTake_crc0 b s h]; exact .of_eq
  | crc1 => rw [rxTake_crc1 b s h]; exact rxTakeCrc1_extends b s

theorem rxByteStep_extends (s : State) : Extends s (rxByteStep s) := by
  unfold rxByteStep
  split
  · exact .refl s
  · exact .trans .of_eq (rxTake_extends ..)

theorem rxByteN_extends (n : Nat) (s : State) : Extends s (rxByteN n s) := by
  induction n generalizing s with
  | zero => exact .refl s
  | succ n ih =>
    unfold rxByteN
    split
    · exact (rxByteStep_extends s).trans (ih _)
    · exact .refl s

/-! ### The varuint unit -/

theorem vuTake_extends (b : Byte) (s : State) : Extends s (vuTake b s) := by
  unfold vuTake
  split <;> exact .emit .of_eq _

theorem vuRestart_extends (s : State) : Extends s (vuRestart s) := by
  unfold vuRestart
  split <;> exact .of_eq

/-! ### The instructions -/

/-- The outcome's next state, if it has one, comes after `s`. -/
def NextExtends (s : State) (o : Host.Outcome State Fault Refusal) : Prop := ∀ t : State, o = .next t → Extends s t

theorem NextExtends.next {s t : State} (h : Extends s t) : NextExtends s (.next t) := by
  intro u hu
  cases hu
  exact h

theorem NextExtends.refused {s : State} {r : Refusal} : NextExtends s (.refused r) := by
  intro u hu
  cases hu

theorem execFrameWrite_nextExtends (rr : Byte) (src dst : Word32) (p : List Byte) (s : State) :
    NextExtends s (execFrameWrite rr src dst p s) := by
  unfold execFrameWrite
  split
  · exact .next (raiseFault_extends ..)
  split
  · exact .next ((raiseFault_extends ..).emit _)
  · exact .next (.emit .of_eq _)

theorem execTrWdone_nextExtends (o : OutCode) (s : State) : NextExtends s (execTrWdone o s) := by
  unfold execTrWdone
  split
  · split
    · exact .next (.emit .of_eq _)
    · exact .refused
  · exact .refused

theorem execFrameRead_nextExtends (s : State) : NextExtends s (execFrameRead s) := by
  unfold execFrameRead
  split
  · exact .next (raiseFault_extends ..)
  · exact .next .of_eq

theorem execTrRdone_nextExtends (chunk : List Byte) (s : State) : NextExtends s (execTrRdone chunk s) := by
  unfold execTrRdone
  split
  · split
    · exact .next .of_eq
    · exact .refused
  · exact .refused

theorem execTrRerr_nextExtends (s : State) : NextExtends s (execTrRerr s) := by
  unfold execTrRerr
  split
  · exact .next (.emit .of_eq _)
  · exact .refused

theorem execChRead_nextExtends (ch cap : Word32) (s : State) : NextExtends s (execChRead ch cap s) := by
  have hl := slotLookup_extends ch true s
  unfold execChRead
  split
  · next h =>
    rw [h] at hl
    exact .next ((hl.trans (raiseIfFatal_extends ..)).emit _)
  · next h =>
    rw [h] at hl
    exact .next (hl.trans (chReadSlot_extends ..))

theorem execChWrite_nextExtends (ch : Word32) (data : List Byte) (s : State) :
    NextExtends s (execChWrite ch data s) := by
  have hl := slotLookup_extends ch true s
  unfold execChWrite
  split
  · next h =>
    rw [h] at hl
    exact .next ((hl.trans (raiseIfFatal_extends ..)).emit _)
  · next h =>
    rw [h] at hl
    exact .next (hl.trans (chWriteSlot_extends ..))

theorem execTunnelEmit_nextExtends (ch space : Word32) (s : State) : NextExtends s (execTunnelEmit ch space s) := by
  have hl := slotLookup_extends ch false s
  unfold execTunnelEmit
  split
  · next h =>
    rw [h] at hl
    exact .next (hl.emit _)
  · next h =>
    rw [h] at hl
    exact .next (hl.trans (tunnelEmitSlot_extends ..))

theorem execRxFetch_nextExtends (s : State) : NextExtends s (execRxFetch s) := by
  unfold execRxFetch
  split
  · exact .next (.emit .of_eq _)
  · exact .refused

theorem execRxByte_nextExtends (s : State) : NextExtends s (execRxByte s) := by
  unfold execRxByte
  split
  · exact .next (rxByteStep_extends s)
  · exact .refused

/-- Every instruction keeps the configuration and the events already emitted. -/
theorem exec_nextExtends (i : Instr) (s : State) : NextExtends s (exec i s) := by
  cases i with
  | crcInit => exact .next .of_eq
  | crcUpdate b => exact .next .of_eq
  | vuDrst => exact .next .of_eq
  | reset => exact .next .of_eq
  | crcRead => exact .next ((Extends.refl s).emit _)
  | vuEnc v => exact .next ((Extends.refl s).emit _)
  | statRead => exact .next ((Extends.refl s).emit _)
  | faultRead => exact .next ((Extends.refl s).emit _)
  | vuDbyte b => exact .next ((vuRestart_extends s).trans (vuTake_extends ..))
  | frameWrite rr src dst payload => exact execFrameWrite_nextExtends rr src dst payload s
  | trWdone outcome => exact execTrWdone_nextExtends outcome s
  | frameRead => exact execFrameRead_nextExtends s
  | trRdone chunk => exact execTrRdone_nextExtends chunk s
  | trRerr => exact execTrRerr_nextExtends s
  | chRead ch cap => exact execChRead_nextExtends ch cap s
  | chWrite ch data => exact execChWrite_nextExtends ch data s
  | tunnelEmit ch space => exact execTunnelEmit_nextExtends ch space s
  | rxFetch => exact execRxFetch_nextExtends s
  | rxByte => exact execRxByte_nextExtends s
  | frame rr src dst len payload crc => exact .next (.trans .of_eq (rxByteN_extends ..))
  | _ => exact .next (handleSubframe_extends _ s)

theorem exec_extends {i : Instr} {s t : State} (h : exec i s = .next t) : Extends s t := exec_nextExtends i s t h

/-- Every step keeps the configuration and the events too: before its instruction runs, a move changes the port and the
turns only. -/
theorem step_extends {s t : State} (h : step s = .next t) : Extends s t := by
  obtain ⟨i, s', -, hk, hx⟩ | ⟨-, hk⟩ := step_eq_next h
  · exact .trans (.of_eq (by rw [hk]) (by rw [hk])) (exec_extends hx)
  · exact .of_eq (by rw [hk]) (by rw [hk])

/-- Settles O49: no operation writes the configuration, RESET included. -/
theorem configurationNeverChanges : Obligations.ConfigurationNeverChanges :=
  fun _ _ h => (step_extends h).cfg_eq

/-- Settles O52: each instruction's events follow those already emitted. -/
theorem eventsAreOnlyAppended : Obligations.EventsAreOnlyAppended :=
  fun _ _ _ h => (exec_extends h).out_eq

end Sys2Proof.Machine
end

section
/-! What the operations outside the frame receiver can do, said once: they are runs of a few elementary effects
(00_scope.md R12, 44_channel.md R210 to R216). That the receiver is not disturbed, that fault bits stay set, and that
the arena keeps its invariants are then facts about one elementary effect each. -/

namespace Sys2Proof.Machine

/-! ### Elementary effects -/

/-- Slot `i` is in the arena and claimed. -/
abbrev SlotUsed (i : Nat) (s : State) : Prop := i < s.slots.length ∧ (slotAt s i).used = true

/-- One elementary effect of an operation outside the receiver: a write of the transmitter's or the varuint unit's
registers, an event that is no transport read request, a fault bit, or a slot that stays used by its channel or is
claimed by a channel that has none, and keeps its own invariant (10_state.md R37). -/
inductive Effect (s : State) : State → Prop
  | units (busy : Bool) (acc : Word32) (n : Fin 5) (st : VuSt) :
      Effect s { s with txBusy := busy, vuAcc := acc, vuN := n, vuSt := st }
  | emit (e : Event) (he : isReadReq e = false) : Effect s (emit e s)
  | raise (b : FaultBit) : Effect s (raiseFault b s)
  | slot (i : Nat) (sl : Slot) (hi : i < s.slots.length) (hu : sl.used = true)
      (hid : ((slotAt s i).used = true ∧ sl.id = (slotAt s i).id) ∨ findSlot sl.id s = none)
      (hok : s.cfg.legal → (slotAt s i).Ok s.cfg → sl.Ok s.cfg) : Effect s (setSlot i sl s)

/-- Elementary effects one after another. -/
abbrev Effects : State → State → Prop := Relation.ReflTransGen Effect

theorem Effects.refl (s : State) : Effects s s := Relation.ReflTransGen.refl

theorem Effects.units (s : State) (busy : Bool) (acc : Word32) (n : Fin 5) (st : VuSt) :
    Effects s { s with txBusy := busy, vuAcc := acc, vuN := n, vuSt := st } :=
  .single (.units busy acc n st)

theorem Effects.emit {s t : State} (h : Effects s t) (e : Event) (he : isReadReq e = false := by rfl) :
    Effects s (emit e t) :=
  h.tail (.emit e he)

theorem Effects.raise {s t : State} (h : Effects s t) (b : FaultBit) : Effects s (raiseFault b t) := h.tail (.raise b)

theorem Effects.raiseIfFatal {s t : State} (h : Effects s t) (b : FaultBit) : Effects s (raiseIfFatal b t) := by
  unfold Machine.raiseIfFatal
  split
  · exact h.raise b
  · exact h

/-- A used slot is written and stays its channel's. -/
theorem Effects.slot {s t : State} {i : Nat} {sl : Slot} (h : Effects s t) (hi : SlotUsed i t) (hu : sl.used = true)
    (hid : sl.id = (slotAt t i).id) (hok : t.cfg.legal → (slotAt t i).Ok t.cfg → sl.Ok t.cfg) :
    Effects s (setSlot i sl t) :=
  h.tail (.slot i sl hi.1 hu (.inl ⟨hi.2, hid⟩) hok)

/-! ### What effects leave unchanged -/

/-- `t` is `s` but for the transmitter, the varuint unit, the arena, the fault register and the events. -/
abbrev OutsideReceiver (s t : State) : Prop :=
  t = { s with
    txBusy := t.txBusy, vuAcc := t.vuAcc, vuN := t.vuN, vuSt := t.vuSt, slots := t.slots, fault := t.fault
    out := t.out }

theorem Effect.outsideReceiver {s t : State} (h : Effect s t) : OutsideReceiver s t := by
  cases h <;> rfl

theorem Effects.outsideReceiver {s t : State} (h : Effects s t) : OutsideReceiver s t := by
  induction h with
  | refl => rfl
  | tail _ h ih => rw [OutsideReceiver, h.outsideReceiver, ih]

theorem Effect.readReqs_eq {s t : State} (h : Effect s t) : t.out.filter isReadReq = s.out.filter isReadReq := by
  cases h with
  | emit e he => simp [he]
  | units | raise | slot => rfl

theorem Effects.readReqs_eq {s t : State} (h : Effects s t) : t.out.filter isReadReq = s.out.filter isReadReq := by
  induction h with
  | refl => rfl
  | tail _ h ih => exact h.readReqs_eq.trans ih

/-! ### Fault bits stay set (10_state.md R33) -/

/-- Every fault bit of `s` is set in `t`. -/
abbrev FaultsKept (s t : State) : Prop := s.fault &&& t.fault = s.fault

theorem FaultsKept.of_eq {s t : State} (h : t.fault = s.fault) : FaultsKept s t := by
  rw [FaultsKept, h, BitVec.and_self]

theorem FaultsKept.trans {s t u : State} (h : FaultsKept s t) (k : FaultsKept t u) : FaultsKept s u := by
  rw [FaultsKept, ← h, BitVec.and_assoc, k]

theorem raiseFault_faultsKept (b : FaultBit) (s : State) : FaultsKept s (raiseFault b s) := by
  ext i hi
  simp only [raiseFault_fault, BitVec.getElem_and, BitVec.getElem_or]
  cases s.fault[i] <;> rfl

theorem Effect.faultsKept {s t : State} (h : Effect s t) : FaultsKept s t := by
  cases h with
  | raise b => exact raiseFault_faultsKept b s
  | units | emit | slot => exact .of_eq rfl

theorem Effects.faultsKept {s t : State} (h : Effects s t) : FaultsKept s t := by
  induction h with
  | refl => exact .of_eq rfl
  | tail _ h ih => exact ih.trans h.faultsKept

/-! ### The arena keeps its invariants (10_state.md R37) -/

/-- A channel that has no slot is the channel of no used slot. -/
theorem findSlot_none {ch : Word32} {s : State} (h : findSlot ch s = none) {sl : Slot} (hm : sl ∈ s.slots)
    (hu : sl.used = true) : sl.id ≠ ch := by
  have hp := List.findIdx?_eq_none_iff.mp h sl hm
  simpa [hu] using hp

theorem slotAt_eq_getElem {s : State} {i : Nat} (hi : i < s.slots.length) : slotAt s i = s.slots[i] := by
  simp [slotAt_eq, hi]

/-- In an arena without two used slots of one id, the id of a used slot is no other used slot's. -/
theorem SlotsOk.id_ne {s : State} (h : SlotsOk s) {i j : Nat} (hi : i < s.slots.length) (hj : j < s.slots.length)
    (hij : i ≠ j) (hui : s.slots[i].used = true) (huj : s.slots[j].used = true) : s.slots[i].id ≠ s.slots[j].id := by
  have hp := List.pairwise_iff_getElem.mp h.2.2
  obtain hlt | hlt := Nat.lt_or_gt_of_ne hij
  · exact hp i j hi hj hlt hui huj
  · exact (hp j i hj hi hlt huj hui).symm

/-- A slot may be written if it keeps its invariant and no other used slot has its id. -/
theorem SlotsOk.setSlot {s : State} {i : Nat} {sl : Slot} (h : SlotsOk s) (hok : sl.Ok s.cfg)
    (hne : ∀ j (hj : j < s.slots.length), i ≠ j → s.slots[j].used = true → s.slots[j].id ≠ sl.id) :
    SlotsOk (setSlot i sl s) := by
  refine ⟨by simpa using h.1, fun sl' hm => ?_, List.pairwise_iff_getElem.mpr fun j k hj hk hjk huj huk => ?_⟩
  · obtain hm | rfl := List.mem_or_eq_of_mem_set hm
    · exact h.2.1 sl' hm
    · exact hok
  · simp only [setSlot_slots, List.length_set] at hj hk
    simp only [setSlot_slots, List.getElem_set] at huj huk ⊢
    by_cases hij : i = j
    · have hik : i ≠ k := by omega
      rw [if_neg hik] at huk
      rw [if_pos hij, if_neg hik]
      exact (hne k hk hik huk).symm
    rw [if_neg hij] at huj ⊢
    by_cases hik : i = k
    · rw [if_pos hik]
      exact hne j hj hij huj
    · rw [if_neg hik] at huk ⊢
      exact h.id_ne hj hk (by omega) huj huk

theorem Effect.slotsOk {s t : State} (h : Effect s t) (hc : s.cfg.legal) (hs : SlotsOk s) : SlotsOk t := by
  cases h with
  | units | emit | raise => exact hs
  | slot i sl hi hu hid hok =>
    have hat := slotAt_eq_getElem hi
    have hold : (slotAt s i).Ok s.cfg := hs.2.1 _ (hat ▸ List.getElem_mem hi)
    refine hs.setSlot (hok hc hold) fun j hj hij huj => ?_
    obtain ⟨hui, he⟩ | hnone := hid
    · rw [he, hat]
      exact hs.id_ne hj hi (Ne.symm hij) huj (hat ▸ hui)
    · exact findSlot_none hnone (List.getElem_mem hj) huj

theorem Effects.slotsOk {s t : State} (h : Effects s t) (hc : s.cfg.legal) (hs : SlotsOk s) : SlotsOk t := by
  induction h with
  | refl => exact hs
  | tail hst h ih => exact h.slotsOk (by rw [Effects.outsideReceiver hst]; exact hc) ih

/-! ### The channel operations are effects -/

theorem slotUsed_of_findSlot {ch : Word32} {s : State} {i : Nat} (h : findSlot ch s = some i) : SlotUsed i s :=
  ⟨(findSlot_some h).1, (findSlot_some h).2.1⟩

theorem slotUsed_setSlot {i : Nat} {sl : Slot} {s : State} (hi : i < s.slots.length) (hu : sl.used = true) :
    SlotUsed i (setSlot i sl s) :=
  ⟨by simpa using hi, by rw [slotAt_setSlot i i sl s hi, if_pos rfl]; exact hu⟩

/-- `slot_lookup` finds a used slot, or claims the least free one (44_channel.md R210). -/
theorem slotLookup_effects {ch : Word32} {create : Bool} {s s' : State} {o : Option Nat}
    (h : slotLookup ch create s = (o, s')) : Effects s s' ∧ ∀ i, o = some i → SlotUsed i s' := by
  obtain ⟨i, hf, hl⟩ | ⟨hf, -, i, hg, hl⟩ | ⟨-, -, hl⟩ := slotLookup_cases ch create s <;> rw [hl] at h <;> cases h
  · exact ⟨.refl s, fun _ hj => Option.some.inj hj ▸ slotUsed_of_findSlot hf⟩
  · obtain ⟨hi, hu⟩ := freeSlot_some hg
    refine ⟨.single (.slot i _ hi rfl (.inr hf) fun _ hok => ?_), fun _ hj =>
      Option.some.inj hj ▸ slotUsed_setSlot hi rfl⟩
    rw [hok.2.2.2.2.1 hu]
    exact ⟨Nat.zero_le _, Nat.zero_le _, nofun, by simp [Slot.reset], nofun, by simp [Slot.reset]⟩
  · exact ⟨.refl s, fun _ hj => nomatch hj⟩

theorem queueIn_effects {i : Nat} (d : List Byte) {s : State} (hi : SlotUsed i s) (hp : (slotAt s i).prd = false) :
    Effects s (queueIn i d s) := by
  have hok : (slotAt s i).Ok s.cfg → Slot.Ok s.cfg
      { slotAt s i with q := (slotAt s i).q ++ d.take (s.cfg.queueCap - (slotAt s i).q.length) } := by
    rintro ⟨hq, hw, -, hprd, -, hpwr⟩
    refine ⟨?_, hw, by simp [hp], hprd, by simp [hi.2], hpwr⟩
    simp only [List.length_append, List.length_take]
    omega
  unfold queueIn
  dsimp only
  split
  · refine ((Effects.refl s).raiseIfFatal _).slot ⟨by simpa using hi.1, ?_⟩ hi.2 ?_ fun _ => ?_
    · simpa using hi.2
    · simp
    · simpa using hok
  · exact (Effects.refl s).slot hi hi.2 rfl fun _ => hok

theorem chReadSlot_effects {i : Nat} (ch cap : Word32) {s : State} (hi : SlotUsed i s) :
    Effects s (chReadSlot i ch cap s) := by
  unfold chReadSlot
  split
  · exact (Effects.refl s).raise _
  next hp =>
  split
  · exact (Effects.refl s).emit _
  next hcap =>
  split
  · have htake : Effects s (setSlot i { slotAt s i with q := (slotAt s i).q.drop cap.toNat } s) := by
      refine (Effects.refl s).slot hi hi.2 rfl ?_
      rintro - ⟨hq, hw, -, hprd, -, hpwr⟩
      refine ⟨?_, hw, fun h => absurd h hp, hprd, by simp [hi.2], hpwr⟩
      simp only [List.length_drop]
      omega
    exact htake.emit _
  · next hq =>
    refine (Effects.refl s).slot hi hi.2 rfl ?_
    rintro - ⟨hq', hw, -, -, -, hpwr⟩
    exact ⟨hq', hw, fun _ => not_not.mp hq, by simpa using hcap, by simp [hi.2], hpwr⟩

theorem chWriteSlot_effects {i : Nat} (ch : Word32) (data : List Byte) {s : State} (hi : SlotUsed i s) :
    Effects s (chWriteSlot i ch data s) := by
  unfold chWriteSlot
  split
  · exact (Effects.refl s).raise _
  split
  · exact (Effects.refl s).emit _
  · next hd =>
    refine (Effects.refl s).slot hi hi.2 rfl ?_
    rintro ⟨-, -, -, -, -, hmax⟩ ⟨hq, -, hpq, hprd, -, -⟩
    refine ⟨hq, by simp, hpq, hprd, by simp [hi.2], ?_⟩
    simpa [hd] using Nat.one_le_iff_ne_zero.mp hmax

theorem tunnelEmitSlot_effects {i : Nat} (ch space : Word32) {s : State} (hi : SlotUsed i s) :
    Effects s (tunnelEmitSlot i ch space s) := by
  unfold tunnelEmitSlot
  split
  · exact (Effects.refl s).emit _
  dsimp only
  split
  · exact (Effects.refl s).emit _
  · have hdone : Effects s (setSlot i { slotAt s i with pwr := false, pwrData := [] } s) := by
      refine (Effects.refl s).slot hi hi.2 rfl ?_
      rintro - ⟨hq, -, hpq, hprd, -, -⟩
      exact ⟨hq, by simp, hpq, hprd, by simp [hi.2], by simp⟩
    exact (hdone.emit _).emit _

/-! ### The demultiplexer's operations are effects -/

theorem tunnelRxSlot_effects {i : Nat} (ch : Word32) (d : List Byte) {s : State} (hi : SlotUsed i s) :
    Effects s (tunnelRxSlot i ch d s) := by
  unfold tunnelRxSlot
  split
  · exact .refl s
  split
  · have hdone : Effects s (setSlot i { slotAt s i with prd := false, prdCap := 0 } s) := by
      refine (Effects.refl s).slot hi hi.2 rfl ?_
      rintro - ⟨hq, hw, -, -, -, hpwr⟩
      exact ⟨hq, hw, by simp, by simp, by simp [hi.2], hpwr⟩
    have hused := slotUsed_setSlot (sl := { slotAt s i with prd := false, prdCap := 0 }) hi.1 hi.2
    dsimp only
    split
    · exact hdone.emit _
    · refine (hdone.emit _).trans (queueIn_effects _ hused ?_)
      rw [slotAt_emit, slotAt_setSlot _ _ _ _ hi.1, if_pos rfl]
  · next hp => exact queueIn_effects d hi (Bool.eq_false_iff.mpr hp)

theorem tunnelRx_effects (ch : Word32) (d : List Byte) (s : State) : Effects s (tunnelRx ch d s) := by
  unfold tunnelRx
  split
  · next h => exact (slotLookup_effects h).1.raiseIfFatal _
  · next h =>
    obtain ⟨he, hi⟩ := slotLookup_effects h
    exact he.trans (tunnelRxSlot_effects ch d (hi _ rfl))

theorem handleTunnel_effects (tag : Byte) (ch : Word32) (d : List Byte) (s : State) :
    Effects s (handleTunnel tag ch d s) := by
  unfold handleTunnel
  split
  · exact tunnelRx_effects ch d s
  · exact .refl s

theorem handleSubframe_effects (sub : Subframe) (s : State) : Effects s (handleSubframe sub s) := by
  cases sub with
  | tunnelC2s ch d => exact handleTunnel_effects 0x40 ch d s
  | tunnelS2c ch d => exact handleTunnel_effects 0x41 ch d s
  | _ => exact (Effects.refl s).emit _

theorem walkFrom_effects (n : Nat) (p : List Byte) (s : State) : Effects s (walkFrom n p s) := by
  induction n generalizing p s with
  | zero => exact .refl s
  | succ n ih =>
    unfold walkFrom
    split
    · exact .refl s
    split
    · exact (handleSubframe_effects _ s).trans (ih ..)
    · exact .refl s

/-! ### The instructions outside the receiver are effects -/

/-- The instructions that write neither the receiver nor the receive port nor `crc_reg`: all but CRC.INIT, CRC.UPDATE,
FRAME.READ, TR.RDONE, TR.RERR, RESET, the internal steps and the frame. -/
def outsideReceiver : Instr → Bool
  | .crcInit | .crcUpdate _ | .frameRead | .trRdone _ | .trRerr | .reset | .rxFetch | .rxByte => false
  | .frame _ _ _ _ _ _ => false
  | _ => true

theorem vuRestart_effects (s : State) : Effects s (vuRestart s) := by
  unfold vuRestart
  split
  · exact .units s s.txBusy 0 0 s.vuSt
  · exact .refl s

theorem vuTake_effects (b : Byte) (s : State) : Effects s (vuTake b s) := by
  unfold vuTake
  split <;> exact (Effects.units s s.txBusy _ _ _).emit _

theorem execFrameWrite_effects {rr : Byte} {src dst : Word32} {p : List Byte} {s t : State}
    (h : execFrameWrite rr src dst p s = .next t) : Effects s t := by
  unfold execFrameWrite at h
  split at h
  · cases h; exact (Effects.refl s).raise _
  split at h
  · cases h; exact ((Effects.refl s).raise _).emit _
  · cases h; exact (Effects.units s true _ _ _).emit _

theorem execTrWdone_effects {o : OutCode} {s t : State} (h : execTrWdone o s = .next t) : Effects s t := by
  unfold execTrWdone at h
  split at h
  · split at h
    · cases h; exact (Effects.units s false _ _ _).emit _
    · cases h
  · cases h

theorem execChRead_effects {ch cap : Word32} {s t : State} (h : execChRead ch cap s = .next t) : Effects s t := by
  unfold execChRead at h
  split at h <;> cases h
  · next hl => exact ((slotLookup_effects hl).1.raiseIfFatal _).emit _
  · next hl =>
    obtain ⟨he, hi⟩ := slotLookup_effects hl
    exact he.trans (chReadSlot_effects ch cap (hi _ rfl))

theorem execChWrite_effects {ch : Word32} {data : List Byte} {s t : State} (h : execChWrite ch data s = .next t) :
    Effects s t := by
  unfold execChWrite at h
  split at h <;> cases h
  · next hl => exact ((slotLookup_effects hl).1.raiseIfFatal _).emit _
  · next hl =>
    obtain ⟨he, hi⟩ := slotLookup_effects hl
    exact he.trans (chWriteSlot_effects ch data (hi _ rfl))

theorem execTunnelEmit_effects {ch space : Word32} {s t : State} (h : execTunnelEmit ch space s = .next t) :
    Effects s t := by
  unfold execTunnelEmit at h
  split at h <;> cases h
  · next hl => exact (slotLookup_effects hl).1.emit _
  · next hl =>
    obtain ⟨he, hi⟩ := slotLookup_effects hl
    exact he.trans (tunnelEmitSlot_effects ch space (hi _ rfl))

/-- All that an instruction outside the receiver can do. -/
theorem exec_effects {i : Instr} {s t : State} (hi : outsideReceiver i = true) (h : exec i s = .next t) :
    Effects s t := by
  cases i with
  | crcInit | crcUpdate | frameRead | trRdone | trRerr | reset | rxFetch | rxByte | frame => cases hi
  | crcRead => cases h; exact (Effects.refl s).emit _
  | vuEnc v => cases h; exact (Effects.refl s).emit _
  | statRead => cases h; exact (Effects.refl s).emit _
  | faultRead => cases h; exact (Effects.refl s).emit _
  | vuDrst => cases h; exact .units s s.txBusy 0 0 .idle
  | vuDbyte b => cases h; exact (vuRestart_effects s).trans (vuTake_effects b _)
  | frameWrite rr src dst payload => exact execFrameWrite_effects h
  | trWdone outcome => exact execTrWdone_effects h
  | chRead ch cap => exact execChRead_effects h
  | chWrite ch data => exact execChWrite_effects h
  | tunnelEmit ch space => exact execTunnelEmit_effects h
  | _ => cases h; exact handleSubframe_effects _ s

end Sys2Proof.Machine
end

section
/-! What RX.BYTE can do, said once (42_frame.md R146 to R150): it writes the receiver's registers, and what else it
touches are effects of the demultiplexer; and what it keeps of the receiver's registers. -/

namespace Sys2Proof.Machine

/-! ### The receiver between two frames -/

/-- The receiver waits for a frame's first byte, and holds nothing of an earlier one (42_frame.md R146). -/
structure Resynced (s : State) : Prop where
  hunting : s.rxState = .hunt0
  raw : s.rxRaw = []
  pay : s.rxPay = []
  vacc : s.rxVacc = 0
  vn : s.rxVn = 0
  len : s.rxLen = 0

theorem rxResync_resynced (s : State) : Resynced (rxResync s) := ⟨rfl, rfl, rfl, rfl, rfl, rfl⟩

/-- Effects keep the receiver's registers. -/
theorem Resynced.of_effects {s t : State} (h : Resynced s) (he : Effects s t) : Resynced t := by
  rw [he.outsideReceiver]
  exact ⟨h.hunting, h.raw, h.pay, h.vacc, h.vn, h.len⟩

theorem Resynced.rxOk {s : State} (h : Resynced s) : RxOk s := by
  simp [RxOk, h.hunting, h.raw, h.pay, h.vacc, h.vn, h.len]

theorem Resynced.rawOk {s : State} (h : Resynced s) : RawOk s := by
  simp [RawOk, h.hunting, h.raw]

/-! ### Delivery -/

/-- `t` is `s` but for the receiver's registers, those of 10_state.md R22 to R29. -/
abbrev RxWrite (s t : State) : Prop :=
  t = { s with
    rxState := t.rxState, rxCrc := t.rxCrc, rxSrc := t.rxSrc, rxDst := t.rxDst, rxVacc := t.rxVacc, rxVn := t.rxVn
    rxLen := t.rxLen, rxPay := t.rxPay, rxCrcLo := t.rxCrcLo, rxRaw := t.rxRaw }

/-- The frame received stands at the checksum's last byte `b`, and the checksum is right (42_frame.md R150). -/
abbrev Completes (b : Byte) (s : State) : Prop := s.rxState = .crc1 ∧ ofLe16 s.rxCrcLo b = s.rxCrc

/-- A frame for this block is delivered by effects: the walk's, and the completion (42_frame.md R148). -/
theorem rxDeliver_forUs {s : State} (h : isForUs s.cfg s.rxDst = true) :
    Effects (rxResync { s with rxArmed := false }) (rxDeliver s) := by
  have hw : demuxFrame s.rxDst s.rxPay s.rxRaw (rxResync { s with rxArmed := false }) =
      walk s.rxPay (rxResync { s with rxArmed := false }) := if_pos h
  unfold rxDeliver
  rw [hw]
  exact (walkFrom_effects ..).emit _

/-- A frame for another block is counted and passed on (43_demux.md R181). -/
theorem rxDeliver_elsewhere {s : State} (h : isForUs s.cfg s.rxDst = false) :
    rxDeliver s =
      { rxResync { s with rxArmed := false } with
        wrongId := s.wrongId + 1
        out := s.out ++ [.unknownFrame s.rxRaw,
          .frameRdDone .ok (some
            { rr := s.rxSrc.msb, src := s.rxSrc.setWidth 7, dst := s.rxDst, payload := s.rxPay
              forUs := false })] } := by
  simp [rxDeliver, demuxFrame, h, emit, rxResync]

theorem rxDeliver_resynced (s : State) : Resynced (rxDeliver s) := by
  cases h : isForUs s.cfg s.rxDst with
  | true => exact (rxResync_resynced _).of_effects (rxDeliver_forUs h)
  | false => rw [rxDeliver_elsewhere h]; exact ⟨rfl, rfl, rfl, rfl, rfl, rfl⟩

theorem rxTakeCrc1_resynced (b : Byte) (s : State) : Resynced (rxTakeCrc1 b s) := by
  unfold rxTakeCrc1
  split
  · exact rxDeliver_resynced _
  · exact rxResync_resynced _

/-! ### All that RX.BYTE can do -/

/-- A length above MAX_PAYLOAD resynchronizes the receiver, and is a fault under FATAL (42_frame.md R150). -/
theorem rxGotLen_effects (v : Word32) (s : State) : ∃ u, RxWrite s u ∧ Effects u (rxGotLen v s) := by
  unfold rxGotLen
  split
  · refine ⟨rxResync s, rfl, ?_⟩
    have hswap : rxResync (raiseIfFatal .rxFrameOverflow s) = raiseIfFatal .rxFrameOverflow (rxResync s) := by
      unfold raiseIfFatal
      split <;> simp_all [rxResync, raiseFault]
    rw [hswap]
    exact (Effects.refl _).raiseIfFatal _
  · exact ⟨_, rfl, .refl _⟩

theorem rxTakeLen_effects (b : Byte) (s : State) : ∃ u, RxWrite s u ∧ Effects u (rxTakeLen b s) := by
  unfold rxTakeLen
  split
  · exact ⟨_, rfl, .refl _⟩
  · exact ⟨_, rfl, .refl _⟩
  · next v _ =>
    obtain ⟨u, hu, he⟩ := rxGotLen_effects v (rxAcc b s)
    exact ⟨u, by rw [RxWrite, hu]; rfl, he⟩

/-- All that taking one byte can do: write the receiver's registers, and then effects, unless it completes a frame; that
frame is delivered. -/
theorem rxTake_cases (b : Byte) (s : State) :
    (∃ u, RxWrite s u ∧ Effects u (rxTake b s)) ∨
      (Completes b s ∧ rxTake b s = rxDeliver { s with rxRaw := s.rxRaw ++ [b] }) := by
  cases h : s.rxState with
  | hunt0 => rw [rxTake_hunt0 b s h, rxHunt0]; left; split <;> exact ⟨_, rfl, .refl _⟩
  | hunt1 =>
    rw [rxTake_hunt1 b s h, rxHunt1]
    left
    split
    · exact ⟨_, rfl, .refl _⟩
    split <;> exact ⟨_, rfl, .refl _⟩
  | src => rw [rxTake_src b s h]; exact .inl ⟨_, rfl, .refl _⟩
  | dst => rw [rxTake_dst b s h]; exact .inl ⟨_, rfl, .refl _⟩
  | len => rw [rxTake_len b s h]; exact .inl (rxTakeLen_effects b s)
  | payload => rw [rxTake_payload b s h]; exact .inl ⟨_, rfl, .refl _⟩
  | crc0 => rw [rxTake_crc0 b s h]; exact .inl ⟨_, rfl, .refl _⟩
  | crc1 =>
    rw [rxTake_crc1 b s h, rxTakeCrc1]
    split
    · next hc => exact .inr ⟨⟨h, hc⟩, rfl⟩
    · exact .inl ⟨_, rfl, .refl _⟩

/-- `t` is `s` but for the receiver's registers, `rx_armed` and `wrong_id`. -/
abbrev DeliveryWrite (s t : State) : Prop := RxWrite { s with rxArmed := t.rxArmed, wrongId := t.wrongId } t

theorem rxDeliver_effects (s : State) : ∃ u, DeliveryWrite s u ∧ Effects u (rxDeliver s) := by
  cases h : isForUs s.cfg s.rxDst with
  | true => exact ⟨_, rfl, rxDeliver_forUs h⟩
  | false =>
    refine ⟨rxResync { s with rxArmed := false, wrongId := s.wrongId + 1 }, rfl, ?_⟩
    simp only [rxDeliver, demuxFrame, rxResync_cfg, h]
    exact ((Effects.refl _).emit _).emit _

/-- So it writes registers of the receiver's side, and the rest are effects. -/
theorem rxTake_effects (b : Byte) (s : State) : ∃ u, DeliveryWrite s u ∧ Effects u (rxTake b s) := by
  obtain ⟨u, hu, he⟩ | ⟨-, he⟩ := rxTake_cases b s
  · exact ⟨u, by rw [DeliveryWrite, RxWrite, hu], he⟩
  · obtain ⟨u, hu, hd⟩ := rxDeliver_effects { s with rxRaw := s.rxRaw ++ [b] }
    exact ⟨u, hu, he ▸ hd⟩

/-- Taking a byte keeps what is neither the receiver's nor the arena's. -/
theorem rxTake_frame (b : Byte) (s : State) :
    (rxTake b s).cfg = s.cfg ∧ (rxTake b s).crcReg = s.crcReg ∧ (rxTake b s).inFifo = s.inFifo ∧
      (rxTake b s).trRdPending = s.trRdPending := by
  obtain ⟨u, hu, he⟩ := rxTake_effects b s
  rw [he.outsideReceiver, hu]
  exact ⟨rfl, rfl, rfl, rfl⟩

theorem rxTake_faultsKept (b : Byte) (s : State) : FaultsKept s (rxTake b s) := by
  obtain ⟨u, hu, he⟩ := rxTake_effects b s
  have hsu : FaultsKept s u := .of_eq (by rw [hu])
  exact hsu.trans he.faultsKept

theorem rxTake_slotsOk (b : Byte) {s : State} (hc : s.cfg.legal) (hs : SlotsOk s) : SlotsOk (rxTake b s) := by
  obtain ⟨u, hu, he⟩ := rxTake_effects b s
  exact he.slotsOk (by rw [hu]; exact hc) (by rw [hu]; exact hs)

/-- The receiver stays armed until it has delivered a frame (42_frame.md R148). -/
theorem rxTake_rxArmed (b : Byte) (s : State) : (rxTake b s).rxArmed = s.rxArmed ∨ Resynced (rxTake b s) := by
  obtain ⟨u, hu, he⟩ | ⟨-, he⟩ := rxTake_cases b s
  · left
    rw [he.outsideReceiver, hu]
  · right
    rw [he]
    exact rxDeliver_resynced _

/-- `wrong_id` stays unless a frame for another block is completed (10_state.md R32). -/
theorem rxTake_wrongId (b : Byte) (s : State) :
    (rxTake b s).wrongId = s.wrongId ∨ (Completes b s ∧ isForUs s.cfg s.rxDst = false) := by
  obtain ⟨u, hu, he⟩ | ⟨hc, he⟩ := rxTake_cases b s
  · left
    rw [he.outsideReceiver, hu]
  cases hus : isForUs s.cfg s.rxDst with
  | true =>
    left
    have hd := (rxDeliver_forUs (s := { s with rxRaw := s.rxRaw ++ [b] }) hus).outsideReceiver
    rw [he, hd]
    rfl
  | false => exact .inr ⟨hc, rfl⟩

/-! ### The receiver's registers, state by state (10_state.md R22, R38) -/

/-- The length of one frame's varuint grows by one with each byte that is not its last (41_varuint.md R122). -/
theorem val_add_one_of_ne_four {n : Fin 5} (h : n ≠ 4) : (n + 1).val = n.val + 1 := by
  revert n
  decide

theorem rxGotLen_rxOk {v : Word32} {s : State} (hraw : s.rxRaw.length ≤ 9) : RxOk (rxGotLen v s) := by
  unfold rxGotLen
  split
  · exact (rxResync_resynced _).rxOk
  · next hv =>
    by_cases h0 : v = 0
    · simpa [RxOk, h0] using hraw
    · have hpos : 0 < v.toNat := Nat.pos_of_ne_zero fun h => h0 (BitVec.eq_of_toNat_eq h)
      simp only [RxOk, if_neg h0]
      exact ⟨hpos, Nat.le_of_not_gt hv, hraw⟩

theorem rxTakeLen_rxOk {b : Byte} {s : State} (h : s.rxState = .len) (hs : RxOk s) : RxOk (rxTakeLen b s) := by
  have hraw : s.rxRaw.length = 4 + s.rxVn.val := by simpa [RxOk, h] using hs
  have hvn := s.rxVn.isLt
  unfold rxTakeLen
  obtain ⟨hn, -, a, hv⟩ | ⟨v, hv⟩ | ⟨-, hv⟩ := vuStep_cases s.rxVacc s.rxVn b <;> rw [hv]
  · simp only [RxOk, rxAcc_rxState, h, rxAcc_rxRaw, List.length_append, List.length_singleton, hraw,
      val_add_one_of_ne_four hn]
    omega
  · exact rxGotLen_rxOk (by simp only [rxAcc_rxRaw, List.length_append, List.length_singleton]; omega)
  · exact (rxResync_resynced _).rxOk

theorem rxTakePay_rxOk {b : Byte} {s : State} (h : s.rxState = .payload) (hs : RxOk s) : RxOk (rxTakePay b s) := by
  obtain ⟨hlt, hmax, hraw⟩ : s.rxPay.length < s.rxLen.toNat ∧ s.rxLen.toNat ≤ s.cfg.maxPayload ∧
      s.rxRaw.length ≤ 9 + s.rxPay.length := by simpa [RxOk, h] using hs
  by_cases hl : (s.rxPay ++ [b]).length = s.rxLen.toNat
  · simp only [RxOk, rxTakePay, if_pos hl, rxAcc_rxRaw, rxAcc_rxLen, rxAcc_cfg]
    simp only [List.length_append, List.length_singleton] at hl ⊢
    omega
  · simp only [RxOk, rxTakePay, if_neg hl, rxAcc_rxRaw, rxAcc_rxLen, rxAcc_cfg]
    simp only [List.length_append, List.length_singleton] at hl ⊢
    omega

theorem rxTake_rxOk (b : Byte) {s : State} (hs : RxOk s) : RxOk (rxTake b s) := by
  cases h : s.rxState with
  | hunt0 =>
    rw [rxTake_hunt0 b s h, rxHunt0]
    split
    · simp [RxOk]
    · exact hs
  | hunt1 =>
    have hraw : s.rxRaw.length = 1 := by simpa [RxOk, h] using hs
    rw [rxTake_hunt1 b s h, rxHunt1]
    split
    · simp [RxOk, hraw]
    split
    · simp [RxOk]
    · exact (rxResync_resynced _).rxOk
  | src =>
    have hraw : s.rxRaw.length = 2 := by simpa [RxOk, h] using hs
    rw [rxTake_src b s h]
    simp [RxOk, rxTakeSrc, hraw]
  | dst =>
    have hraw : s.rxRaw.length = 3 := by simpa [RxOk, h] using hs
    rw [rxTake_dst b s h]
    simp [RxOk, rxTakeDst, hraw]
  | len => rw [rxTake_len b s h]; exact rxTakeLen_rxOk h hs
  | payload => rw [rxTake_payload b s h]; exact rxTakePay_rxOk h hs
  | crc0 =>
    obtain ⟨hlen, hmax, hraw⟩ : s.rxPay.length = s.rxLen.toNat ∧ s.rxLen.toNat ≤ s.cfg.maxPayload ∧
        s.rxRaw.length ≤ 9 + s.rxPay.length := by simpa [RxOk, h] using hs
    rw [rxTake_crc0 b s h]
    simp only [RxOk, rxTakeCrc0, List.length_append, List.length_singleton]
    omega
  | crc1 => rw [rxTake_crc1 b s h]; exact (rxTakeCrc1_resynced b s).rxOk

/-! ### The raw bytes and their checksum (10_state.md R23, R29) -/

/-- The checksum is folded byte by byte (40_crc.md R101). -/
theorem crc16_append (x : List Byte) (b : Byte) : crc16 (x ++ [b]) = crcStep (crc16 x) b := by
  simp [crc16]

/-- Folding in one byte keeps `rx_crc` the checksum of `rx_raw` (42_frame.md R150). -/
theorem rxAcc_rxCrc_eq {b : Byte} {s : State} (h : s.rxCrc = crc16 s.rxRaw) :
    (rxAcc b s).rxCrc = crc16 (rxAcc b s).rxRaw := by
  rw [rxAcc_rxCrc, rxAcc_rxRaw, crc16_append, h]

theorem rxStart_rawOk (s : State) : RawOk (rxStart s) := by
  simp [RawOk, crc16]

theorem rxGotLen_rawOk {v : Word32} {s : State} {len : List Byte} (hraw : s.rxRaw = rxHead s ++ len)
    (hlen : vuParse len = .ok v []) (hcrc : s.rxCrc = crc16 s.rxRaw) : RawOk (rxGotLen v s) := by
  unfold rxGotLen
  split
  · exact (rxResync_resynced _).rawOk
  · have hframe : ∃ l, s.rxRaw = rxHead s ++ l ++ [] ∧ vuParse l = .ok v [] := ⟨len, by simpa using hraw, hlen⟩
    by_cases h0 : v = 0
    · simp only [RawOk, if_pos h0]
      exact ⟨hframe, hcrc⟩
    · simp only [RawOk, if_neg h0]
      exact ⟨hframe, hcrc⟩

theorem rxTakeLen_rawOk {b : Byte} {s : State} (h : s.rxState = .len) (hs : RawOk s) : RawOk (rxTakeLen b s) := by
  obtain ⟨⟨len, hraw, hlen, hparse⟩, hcrc⟩ : (∃ len, s.rxRaw = rxHead s ++ len ∧ len.length = s.rxVn.val ∧
      ∀ rest, vuParse (len ++ rest) = vuParseFrom s.rxVacc s.rxVn rest) ∧ s.rxCrc = crc16 s.rxRaw := by
    simpa [RawOk, h] using hs
  have hraw' : (rxAcc b s).rxRaw = rxHead s ++ (len ++ [b]) := by rw [rxAcc_rxRaw, hraw, List.append_assoc]
  unfold rxTakeLen
  obtain ⟨hn, -, a, hv⟩ | ⟨v, hv⟩ | ⟨-, hv⟩ := vuStep_cases s.rxVacc s.rxVn b <;> rw [hv]
  · simp only [RawOk, rxAcc_rxState, h]
    refine ⟨⟨len ++ [b], hraw', by simp [hlen, val_add_one_of_ne_four hn], fun rest => ?_⟩, rxAcc_rxCrc_eq hcrc⟩
    rw [List.append_assoc, hparse, List.singleton_append, vuParseFrom, hv]
  · exact rxGotLen_rawOk hraw' (by rw [hparse, vuParseFrom, hv]) (rxAcc_rxCrc_eq hcrc)
  · exact (rxResync_resynced _).rawOk

theorem rxTakePay_rawOk {b : Byte} {s : State} (h : s.rxState = .payload) (hs : RawOk s) : RawOk (rxTakePay b s) := by
  obtain ⟨⟨len, hraw, hlen⟩, hcrc⟩ : (∃ len, s.rxRaw = rxHead s ++ len ++ s.rxPay ∧ vuParse len = .ok s.rxLen []) ∧
      s.rxCrc = crc16 s.rxRaw := by simpa [RawOk, h] using hs
  have hframe : ∃ l, (rxAcc b s).rxRaw = rxHead s ++ l ++ (s.rxPay ++ [b]) ∧ vuParse l = .ok s.rxLen [] :=
    ⟨len, by rw [rxAcc_rxRaw, hraw, List.append_assoc], hlen⟩
  by_cases hl : (s.rxPay ++ [b]).length = s.rxLen.toNat
  · simp only [RawOk, rxTakePay, if_pos hl]
    exact ⟨hframe, rxAcc_rxCrc_eq hcrc⟩
  · simp only [RawOk, rxTakePay, if_neg hl]
    exact ⟨hframe, rxAcc_rxCrc_eq hcrc⟩

theorem rxTake_rawOk (b : Byte) {s : State} (hs : RawOk s) : RawOk (rxTake b s) := by
  cases h : s.rxState with
  | hunt0 =>
    rw [rxTake_hunt0 b s h, rxHunt0]
    split
    · exact rxStart_rawOk s
    · exact hs
  | hunt1 =>
    obtain ⟨hraw, hcrc⟩ : s.rxRaw = [0x54] ∧ s.rxCrc = crc16 s.rxRaw := by simpa [RawOk, h] using hs
    rw [rxTake_hunt1 b s h, rxHunt1]
    split
    · next hb => exact ⟨by simp [hraw, hb], rxAcc_rxCrc_eq hcrc⟩
    split
    · exact rxStart_rawOk s
    · exact (rxResync_resynced _).rawOk
  | src =>
    obtain ⟨hraw, hcrc⟩ : s.rxRaw = [0x54, 0xAB] ∧ s.rxCrc = crc16 s.rxRaw := by simpa [RawOk, h] using hs
    rw [rxTake_src b s h]
    exact ⟨by simp [rxTakeSrc, hraw], rxAcc_rxCrc_eq hcrc⟩
  | dst =>
    obtain ⟨hraw, hcrc⟩ : s.rxRaw = [0x54, 0xAB, s.rxSrc] ∧ s.rxCrc = crc16 s.rxRaw := by simpa [RawOk, h] using hs
    rw [rxTake_dst b s h]
    exact ⟨⟨[], by simp [rxTakeDst, rxHead, hraw], rfl, fun _ => rfl⟩, rxAcc_rxCrc_eq hcrc⟩
  | len => rw [rxTake_len b s h]; exact rxTakeLen_rawOk h hs
  | payload => rw [rxTake_payload b s h]; exact rxTakePay_rawOk h hs
  | crc0 =>
    obtain ⟨⟨len, hraw, hlen⟩, hcrc⟩ : (∃ len, s.rxRaw = rxHead s ++ len ++ s.rxPay ∧ vuParse len = .ok s.rxLen []) ∧
        s.rxCrc = crc16 s.rxRaw := by simpa [RawOk, h] using hs
    rw [rxTake_crc0 b s h]
    exact ⟨len, congrArg (· ++ [b]) hraw, hlen, hcrc.trans (congrArg crc16 hraw)⟩
  | crc1 => rw [rxTake_crc1 b s h]; exact (rxTakeCrc1_resynced b s).rawOk

end Sys2Proof.Machine
end

section
/-! Which instruction a step runs, and from which state: a decoded command, or an enabled internal step, so never a
subframe or a frame (00_scope.md R2, R13, R17). -/

namespace Sys2Proof.Machine

/-! ### What the command port can spell -/

/-- Whatever value the parser answers has the property. -/
def Parse.Yields {α : Type} (P : α → Prop) (p : Parse α) : Prop := ∀ v r, p = .ok v r → P v

namespace Parse.Yields

theorem ok {α : Type} {P : α → Prop} {v : α} {r : List Byte} (h : P v) : Yields P (.ok v r) := by
  rintro w _ ⟨⟩
  exact h

theorem err {α : Type} {P : α → Prop} {e : DecodeError} : Yields P (.err e) := nofun

theorem ite {α : Type} {P : α → Prop} {p q : Parse α} {c : Prop} [Decidable c] (hp : Yields P p) (hq : Yields P q) :
    Yields P (if c then p else q) := by
  split
  · exact hp
  · exact hq

theorem map {α β : Type} {P : β → Prop} {f : α → β} {p : Parse α} (h : ∀ v, P (f v)) : Yields P (p.map f) := by
  intro w r e
  obtain ⟨v, -, rfl⟩ := Parse.map_eq_ok.mp e
  exact h v

theorem andThen {α β : Type} {P : β → Prop} {k : α → List Byte → Parse β} {p : Parse α}
    (h : ∀ v r, Yields P (k v r)) : Yields P (p.andThen k) := by
  intro w r e
  obtain ⟨v, r', -, e⟩ := Parse.andThen_eq_ok.mp e
  exact h v r' w r e

end Parse.Yields

/-- The command port spells commands only (30_encoding.md R89). -/
theorem decodeCommand_place (bytes : List Byte) : Parse.Yields (fun i => i.place = .command) (decodeCommand bytes) := by
  cases bytes with
  | nil => exact .err
  | cons op r =>
    dsimp only [decodeCommand]
    refine .ite (.ok rfl) <| .ite (.map fun _ => rfl) <| .ite (.ok rfl) ?_
    refine .ite (.map fun _ => rfl) <| .ite (.ok rfl) <| .ite (.map fun _ => rfl) ?_
    refine .ite (.andThen fun _ _ => .andThen fun _ _ => .andThen fun _ _ => .map fun _ => rfl) ?_
    refine .ite (.map fun _ => rfl) <| .ite (.ok rfl) <| .ite (.map fun _ => rfl) <| .ite (.ok rfl) ?_
    refine .ite (.andThen fun _ _ => .map fun _ => rfl) ?_
    refine .ite (.andThen fun _ _ => .map fun _ => rfl) ?_
    refine .ite (.andThen fun _ _ => .map fun _ => rfl) ?_
    exact .ite (.ok rfl) <| .ite (.ok rfl) <| .ite (.ok rfl) .err

/-! ### Where a move's instruction comes from -/

/-- The move runs an enabled internal step, the port untouched, or a record presented on the port. -/
def Move.Sourced (s : State) : Move → Prop
  | .run i s' => (internalStep s' = some i ∧ s' = { s with sched := s'.sched }) ∨ decodeCommand s.port = .ok i s'.port
  | .refuse _ => True
  | .idle _ => True

theorem presentRecord_sourced (s : State) : (presentRecord s).Sourced s := by
  unfold presentRecord
  split
  · next h => exact .inr h
  · trivial

theorem blockTurn_sourced (s : State) : (blockTurn s).Sourced s := by
  cases h : internalStep s with
  | some i => rw [blockTurn_of_some h]; exact .inl ⟨h, rfl⟩
  | none =>
    rw [blockTurn_of_none h]
    split
    · trivial
    · exact presentRecord_sourced s

theorem envTurn_sourced (s : State) : (envTurn s).Sourced s := by
  unfold envTurn
  split
  · exact blockTurn_sourced s
  · exact presentRecord_sourced s

theorem Move.Sourced.of_sched {s : State} {sched : List Turn} {m : Move} (h : m.Sourced { s with sched := sched }) :
    m.Sourced s := by
  cases m with
  | run i s' => exact h
  | refuse | idle => trivial

theorem nextMove_sourced (s : State) : (nextMove s).Sourced s := by
  cases h : s.sched with
  | nil => rw [nextMove_of_nil h]; exact blockTurn_sourced s
  | cons turn sched =>
    cases turn with
    | env => rw [nextMove_of_env h]; exact (envTurn_sourced _).of_sched
    | block => rw [nextMove_of_block h]; exact (blockTurn_sourced _).of_sched

/-- The only internal steps are RX.FETCH and RX.BYTE, each while its guard holds (00_scope.md R13). -/
theorem internalStep_eq_some {s : State} {i : Instr} (h : internalStep s = some i) :
    (i = .rxFetch ∧ rxFetchEnabled s = true) ∨ (i = .rxByte ∧ rxByteEnabled s = true) := by
  unfold internalStep at h
  split at h
  · next hf => cases h; exact .inl ⟨rfl, hf⟩
  split at h
  · next hb => cases h; exact .inr ⟨rfl, hb⟩
  · cases h

/-- A step runs a command or an internal step. -/
theorem nextMove_place {s s' : State} {i : Instr} (h : nextMove s = .run i s') :
    i.place = .command ∨ i.place = .trace := by
  have hs := nextMove_sourced s
  rw [h] at hs
  obtain ⟨hi, -⟩ | hd := hs
  · obtain ⟨rfl, -⟩ | ⟨rfl, -⟩ := internalStep_eq_some hi <;> exact .inr rfl
  · exact .inl (decodeCommand_place _ _ _ hd)

/-- RX.BYTE is taken while its guard holds, and only the turn is used up before it. -/
theorem nextMove_rxByte {s s' : State} (h : nextMove s = .run .rxByte s') :
    s' = { s with sched := s'.sched } ∧ s'.rxArmed = true := by
  have hs := nextMove_sourced s
  rw [h] at hs
  obtain ⟨hi, he⟩ | hd := hs
  · obtain ⟨hc, -⟩ | ⟨-, hb⟩ := internalStep_eq_some hi
    · cases hc
    · exact ⟨he, (Bool.and_eq_true_iff.mp hb).1⟩
  · cases decodeCommand_place _ _ _ hd

/-! ### The instructions of the receive port -/

/-- FRAME.READ arms the receiver, and on an armed one is a fault (42_frame.md R143). -/
theorem exec_frameRead_eq_next {s t : State} (h : exec .frameRead s = .next t) :
    (s.rxArmed = true ∧ t = raiseFault .frameReadBusy s) ∨ (s.rxArmed = false ∧ t = { s with rxArmed := true }) := by
  change execFrameRead s = .next t at h
  unfold execFrameRead at h
  split at h <;> cases h
  · next ha => exact .inl ⟨ha, rfl⟩
  · next ha => exact .inr ⟨Bool.eq_false_iff.mpr ha, rfl⟩

/-- TR.RDONE answers an outstanding read with a chunk that fits (42_frame.md R144). -/
theorem exec_trRdone_eq_next {chunk : List Byte} {s t : State} (h : exec (.trRdone chunk) s = .next t) :
    s.trRdPending = true ∧ chunk.length ≤ s.cfg.rxChunkMax ∧ t = { s with trRdPending := false, inFifo := chunk } := by
  change execTrRdone chunk s = .next t at h
  unfold execTrRdone at h
  split at h
  · next hp =>
    split at h <;> cases h
    next hl => exact ⟨hp, hl, rfl⟩
  · cases h

/-- TR.RERR ends an outstanding read, and the frame read with it (42_frame.md R145). -/
theorem exec_trRerr_eq_next {s t : State} (h : exec .trRerr s = .next t) :
    s.trRdPending = true ∧
      t = emit (.frameRdDone .errTransport none)
        { rxResync { s with trRdPending := false } with rxArmed := false } := by
  change execTrRerr s = .next t at h
  unfold execTrRerr at h
  split at h <;> cases h
  next hp => exact ⟨hp, rfl⟩

/-- RX.FETCH asks for a chunk, while no read is outstanding and no byte is queued (42_frame.md R149). -/
theorem exec_rxFetch_eq_next {s t : State} (h : exec .rxFetch s = .next t) :
    s.rxArmed = true ∧ s.inFifo = [] ∧ s.trRdPending = false ∧ t = rxFetchStep s := by
  change execRxFetch s = .next t at h
  unfold execRxFetch at h
  split at h <;> cases h
  next he =>
    simp only [rxFetchEnabled, Bool.and_eq_true, List.isEmpty_iff, Bool.not_eq_true'] at he
    exact ⟨he.1.1, he.1.2, he.2, rfl⟩

/-- RX.BYTE takes the oldest byte queued, on an armed receiver (42_frame.md R150). -/
theorem exec_rxByte_eq_next {s t : State} (h : exec .rxByte s = .next t) :
    s.rxArmed = true ∧ ∃ b rest, s.inFifo = b :: rest ∧ t = rxTake b { s with inFifo := rest } := by
  change execRxByte s = .next t at h
  by_cases ha : s.rxArmed = true
  · cases hf : s.inFifo with
    | nil => simp [execRxByte, rxByteEnabled, hf] at h
    | cons b rest =>
      rw [execRxByte_cons ha hf] at h
      cases h
      exact ⟨ha, b, rest, rfl, rfl⟩
  · simp [execRxByte, rxByteEnabled, ha] at h

end Sys2Proof.Machine
end

section
/-! The receiver's bytes, and the invariants of 10_state.md R22, R30, R37, R38, are kept by every step and hold in every
reachable state. -/

namespace Sys2Proof.Machine

/-! ### The raw bytes -/

theorem Effects.rawOk {s t : State} (h : Effects s t) (hs : RawOk s) : RawOk t := by
  rw [h.outsideReceiver]
  exact hs

theorem exec_rawOk {i : Instr} {s t : State} (hp : i.place = .command ∨ i.place = .trace) (hs : RawOk s)
    (h : exec i s = .next t) : RawOk t := by
  cases i with
  | crcInit | crcUpdate => cases h; exact hs
  | reset => cases h; exact Resynced.rawOk ⟨rfl, rfl, rfl, rfl, rfl, rfl⟩
  | frameRead => obtain ⟨-, rfl⟩ | ⟨-, rfl⟩ := exec_frameRead_eq_next h <;> exact hs
  | trRdone chunk => obtain ⟨-, -, rfl⟩ := exec_trRdone_eq_next h; exact hs
  | trRerr => obtain ⟨-, rfl⟩ := exec_trRerr_eq_next h; exact Resynced.rawOk ⟨rfl, rfl, rfl, rfl, rfl, rfl⟩
  | rxFetch => obtain ⟨-, -, -, rfl⟩ := exec_rxFetch_eq_next h; exact hs
  | rxByte => obtain ⟨-, b, rest, -, rfl⟩ := exec_rxByte_eq_next h; exact rxTake_rawOk b hs
  | frame => simp [Instr.place] at hp
  | _ => exact (exec_effects rfl h).rawOk hs

/-- Settles O29: RX.BYTE appends to `rx_raw` and folds into `rx_crc` state by state, RESET and TR.RERR clear the
receiver, and no other instruction writes its registers. -/
theorem rawBytesAndCrcAreKept : Obligations.RawBytesAndCrcAreKept := by
  intro s t hs h
  obtain ⟨i, s', hm, hk, hx⟩ | ⟨-, hk⟩ := step_eq_next h
  · exact exec_rawOk (nextMove_place hm) (by rw [hk]; exact hs) hx
  · rw [hk]
    exact hs

/-! ### The invariant -/

theorem init_inv {c : Config} (hc : c.legal) : (State.init c).Inv := by
  refine ⟨hc, ⟨fun _ => rfl, nofun, Nat.zero_le _⟩, Resynced.rxOk ⟨rfl, rfl, rfl, rfl, rfl, rfl⟩,
    List.length_replicate, fun sl hm => ?_, ?_⟩
  · rw [List.eq_of_mem_replicate hm]
    exact ⟨Nat.zero_le _, Nat.zero_le _, nofun, by simp [Slot.reset], fun _ => rfl, by simp [Slot.reset]⟩
  · exact List.pairwise_replicate.mpr (.inr nofun)

theorem Effects.inv {s t : State} (h : Effects s t) (hs : s.Inv) : t.Inv := by
  obtain ⟨hc, hp, hr, hsl⟩ := hs
  have hslots : SlotsOk t := h.slotsOk hc hsl
  refine ⟨?_, ?_, ?_, hslots⟩ <;> rw [h.outsideReceiver]
  · exact hc
  · exact hp
  · exact hr

theorem rxTake_inv {b : Byte} {rest : List Byte} {s : State} (ha : s.rxArmed = true) (hf : s.inFifo = b :: rest)
    (hs : s.Inv) : (rxTake b { s with inFifo := rest }).Inv := by
  obtain ⟨hc, ⟨-, hpend, hcap⟩, hr, hsl⟩ := hs
  obtain ⟨hcfg, -, hfifo, hpending⟩ := rxTake_frame b { s with inFifo := rest }
  have hnot : s.trRdPending ≠ true := fun hq => List.cons_ne_nil b rest (hf.symm.trans (hpend hq).1)
  refine ⟨by rw [hcfg]; exact hc, ⟨fun hoff => ?_, fun hp => ?_, ?_⟩, rxTake_rxOk b hr, rxTake_slotsOk b hc hsl⟩
  · obtain hkept | hre := rxTake_rxArmed b { s with inFifo := rest }
    · rw [hkept] at hoff
      exact absurd (ha.symm.trans hoff) nofun
    · exact hre.hunting
  · exact absurd (hpending.symm.trans hp) hnot
  · rw [hfifo, hcfg]
    rw [hf, List.length_cons] at hcap
    exact Nat.le_of_succ_le hcap

theorem exec_inv {i : Instr} {s t : State} (hp : i.place = .command ∨ i.place = .trace) (hs : s.Inv)
    (h : exec i s = .next t) : t.Inv := by
  obtain ⟨hc, ⟨harm, hpend, hcap⟩, hr, hsl⟩ := id hs
  cases i with
  | crcInit | crcUpdate => cases h; exact hs
  | reset => cases h; exact init_inv hc
  | frameRead =>
    obtain ⟨-, rfl⟩ | ⟨-, rfl⟩ := exec_frameRead_eq_next h
    · exact hs
    · exact ⟨hc, ⟨nofun, fun hq => ⟨(hpend hq).1, rfl⟩, hcap⟩, hr, hsl⟩
  | trRdone chunk =>
    obtain ⟨-, hl, rfl⟩ := exec_trRdone_eq_next h
    exact ⟨hc, ⟨harm, nofun, hl⟩, hr, hsl⟩
  | trRerr =>
    obtain ⟨-, rfl⟩ := exec_trRerr_eq_next h
    exact ⟨hc, ⟨fun _ => rfl, nofun, hcap⟩, Resynced.rxOk ⟨rfl, rfl, rfl, rfl, rfl, rfl⟩, hsl⟩
  | rxFetch =>
    obtain ⟨ha, hf, -, rfl⟩ := exec_rxFetch_eq_next h
    exact ⟨hc, ⟨harm, fun _ => ⟨hf, ha⟩, hcap⟩, hr, hsl⟩
  | rxByte =>
    obtain ⟨ha, b, rest, hf, rfl⟩ := exec_rxByte_eq_next h
    exact rxTake_inv ha hf hs
  | frame => simp [Instr.place] at hp
  | _ => exact (exec_effects rfl h).inv hs

theorem step_inv {s t : State} (hs : s.Inv) (h : step s = .next t) : t.Inv := by
  obtain ⟨i, s', hm, hk, hx⟩ | ⟨-, hk⟩ := step_eq_next h
  · exact exec_inv (nextMove_place hm) (by rw [hk]; exact hs) hx
  · rw [hk]
    exact hs

/-- Settles O57: the channels and the walk keep the arena, RX.BYTE keeps the receiver's registers in order, and the
transport handshake keeps the receive port. -/
theorem invariantIsKept : Obligations.InvariantIsKept := fun _ _ => step_inv

/-! ### Reachable states -/

/-- What every step keeps holds wherever a run ends. -/
theorem runSteps_induction {P : State → Prop} (hstep : ∀ s t, P s → step s = .next t → P t) {n : Nat} {s t : State}
    (hs : P s) (h : runSteps n s = .next t) : P t := by
  induction n generalizing s with
  | zero => cases h; exact hs
  | succ n ih =>
    rw [runSteps] at h
    cases hst : step s with
    | next u => rw [hst] at h; exact ih (hstep s u hs hst) h
    | fault r => rw [hst] at h; cases h
    | refused r => rw [hst] at h; cases h

/-- The raw bytes of a frame are its payload and at most eleven more: magic, source, destination, a varuint of at most
five bytes, and the checksum (10_state.md R38). -/
theorem RxOk.rxRaw_length_le {s : State} (h : RxOk s) : s.rxRaw.length ≤ s.cfg.maxPayload + 11 := by
  have hvn := s.rxVn.isLt
  cases hst : s.rxState <;> simp only [RxOk, hst] at h
  case hunt0 => simp [h.1]
  all_goals omega

theorem RxOk.rxPay_length_le {s : State} (h : RxOk s)
    (hst : s.rxState = .payload ∨ s.rxState = .crc0 ∨ s.rxState = .crc1) :
    s.rxPay.length ≤ s.rxLen.toNat ∧ s.rxLen.toNat ≤ s.cfg.maxPayload := by
  obtain hst | hst | hst := hst <;> simp only [RxOk, hst] at h <;> omega

theorem RxOk.rxRaw_eq_nil {s : State} (h : RxOk s) (hst : s.rxState = .hunt0) : s.rxRaw = [] := by
  simp only [RxOk, hst] at h
  exact h.1

theorem State.Inv.r38 {s : State} (hs : s.Inv) : R38 s := by
  obtain ⟨-, ⟨-, -, hcap⟩, hr, -⟩ := hs
  exact ⟨hr.rxPay_length_le, hr.rxRaw_length_le, hcap, hr.rxRaw_eq_nil⟩

/-- Settles O59: construction meets the invariant, every step keeps it, and it says what R37 and R38 say. -/
theorem reachableStatesMeetTheStateInvariants : Obligations.ReachableStatesMeetTheStateInvariants := by
  intro c port sched n t hc h _
  have hstep (s u : State) (hs : s.Inv ∧ s.cfg = c) (hst : step s = .next u) : u.Inv ∧ u.cfg = c :=
    ⟨step_inv hs.1 hst, (step_extends hst).cfg_eq.trans hs.2⟩
  obtain ⟨hinv, hcfg⟩ : t.Inv ∧ t.cfg = c := by
    refine runSteps_induction hstep ?_ h
    exact ⟨init_inv hc, rfl⟩
  obtain ⟨-, -, -, -, hok, hids⟩ := id hinv
  refine ⟨hids, fun sl hm => ?_, hinv.r38⟩
  obtain ⟨-, hw, hq, -, hfree, hpwr⟩ := hok sl hm
  exact ⟨hq, hfree, fun h => ⟨List.length_pos_iff.mpr (hpwr.mp h), hcfg ▸ hw⟩⟩

end Sys2Proof.Machine
end

section
/-! What a step leaves alone: the fault bits already set (10_state.md R33), `wrong_id` (R32), the stand-alone CRC
register (R34), a receiver with no read outstanding (R21); and RESET, which leaves nothing (R40). -/

namespace Sys2Proof.Machine

/-- A step that is no RESET runs another instruction. -/
theorem ne_reset_of_notReset {s s' : State} {i : Instr} (h : notReset s = true) (hm : nextMove s = .run i s') :
    i ≠ .reset := by
  rintro rfl
  simp [notReset, hm] at h

/-! ### Fault bits -/

theorem exec_faultsKept {i : Instr} {s t : State} (hp : i.place = .command ∨ i.place = .trace) (hr : i ≠ .reset)
    (h : exec i s = .next t) : FaultsKept s t := by
  cases i with
  | crcInit | crcUpdate => cases h; exact .of_eq rfl
  | reset => exact absurd rfl hr
  | frameRead =>
    obtain ⟨-, rfl⟩ | ⟨-, rfl⟩ := exec_frameRead_eq_next h
    · exact raiseFault_faultsKept _ s
    · exact .of_eq rfl
  | trRdone chunk => obtain ⟨-, -, rfl⟩ := exec_trRdone_eq_next h; exact .of_eq rfl
  | trRerr => obtain ⟨-, rfl⟩ := exec_trRerr_eq_next h; exact .of_eq rfl
  | rxFetch => obtain ⟨-, -, -, rfl⟩ := exec_rxFetch_eq_next h; exact .of_eq rfl
  | rxByte => obtain ⟨-, b, rest, -, rfl⟩ := exec_rxByte_eq_next h; exact rxTake_faultsKept b { s with inFifo := rest }
  | frame => simp [Instr.place] at hp
  | _ => exact (exec_effects rfl h).faultsKept

/-- Settles O48: `fault` is written by setting bits, and by RESET. -/
theorem faultBitsAreSticky : Obligations.FaultBitsAreSticky := by
  intro s t hn h
  obtain ⟨i, s', hm, hk, hx⟩ | ⟨-, hk⟩ := step_eq_next h
  · have hss' : FaultsKept s s' := .of_eq (by rw [hk])
    exact hss'.trans (exec_faultsKept (nextMove_place hm) (ne_reset_of_notReset hn hm) hx)
  · exact FaultsKept.of_eq (by rw [hk])

/-! ### The counter of misaddressed frames -/

theorem exec_wrongId {i : Instr} {s t : State} (hp : i.place = .command ∨ i.place = .trace) (hr : i ≠ .reset)
    (h : exec i s = .next t) :
    t.wrongId = s.wrongId ∨
      i = .rxByte ∧ ∃ b rest, s.inFifo = b :: rest ∧ Completes b s ∧ isForUs s.cfg s.rxDst = false := by
  cases i with
  | crcInit | crcUpdate => cases h; exact .inl rfl
  | reset => exact absurd rfl hr
  | frameRead => obtain ⟨-, rfl⟩ | ⟨-, rfl⟩ := exec_frameRead_eq_next h <;> exact .inl rfl
  | trRdone chunk => obtain ⟨-, -, rfl⟩ := exec_trRdone_eq_next h; exact .inl rfl
  | trRerr => obtain ⟨-, rfl⟩ := exec_trRerr_eq_next h; exact .inl rfl
  | rxFetch => obtain ⟨-, -, -, rfl⟩ := exec_rxFetch_eq_next h; exact .inl rfl
  | rxByte =>
    obtain ⟨-, b, rest, hf, rfl⟩ := exec_rxByte_eq_next h
    obtain hw | hw := rxTake_wrongId b { s with inFifo := rest }
    · exact .inl hw
    · exact .inr ⟨rfl, b, rest, hf, hw⟩
  | frame => simp [Instr.place] at hp
  | _ => left; rw [(exec_effects rfl h).outsideReceiver]

/-- RX.BYTE on the last byte of a checksum-valid frame for another block (10_state.md R32, 42_frame.md R148). -/
theorem exec_rxByte_elsewhere {s : State} {b : Byte} {rest : List Byte} (ha : s.rxArmed = true)
    (hf : s.inFifo = b :: rest) (hst : s.rxState = .crc1) (hcrc : b ++ s.rxCrcLo = s.rxCrc)
    (hus : isForUs s.cfg s.rxDst = false) :
    exec .rxByte s =
      .next { s with
        inFifo := rest, rxArmed := false, rxState := .hunt0, rxRaw := [], rxPay := [], rxVacc := 0, rxVn := 0
        rxLen := 0, wrongId := s.wrongId + 1
        out := s.out ++ [.unknownFrame (s.rxRaw ++ [b]),
          .frameRdDone .ok (some
            { rr := s.rxSrc.msb, src := s.rxSrc.setWidth 7, dst := s.rxDst, payload := s.rxPay
              forUs := false })] } := by
  have htake : rxTake b { s with inFifo := rest } = rxDeliver { s with inFifo := rest, rxRaw := s.rxRaw ++ [b] } := by
    rw [rxTake_crc1 b { s with inFifo := rest } hst]
    exact if_pos hcrc
  have hdel := rxDeliver_elsewhere (s := { s with inFifo := rest, rxRaw := s.rxRaw ++ [b] }) hus
  change execRxByte s = _
  rw [execRxByte_cons ha hf, htake, hdel]
  rfl

theorem isForUs_eq_false {c : Config} {dst : Byte} : isForUs c dst = false ↔ dst ≠ c.ownId.setWidth 8 := by
  simp [isForUs]

/-- Settles O50: only the delivery of a frame for another block writes `wrong_id`, and its step is the one stated. -/
theorem wrongIdIsWrittenByTheFilterOnly : Obligations.WrongIdIsWrittenByTheFilterOnly := by
  refine ⟨fun s t hn h => ?_, ?_⟩
  · obtain ⟨i, s', hm, hk, hx⟩ | ⟨-, hk⟩ := step_eq_next h
    · obtain hw | ⟨rfl, b, rest, hf, ⟨hst, hcrc⟩, hus⟩ :=
        exec_wrongId (nextMove_place hm) (ne_reset_of_notReset hn hm) hx
      · exact .inl (by rw [hw, hk])
      · exact .inr ⟨s', b, rest, hm, hst, hf, hcrc, isForUs_eq_false.mp hus⟩
    · exact .inl (by rw [hk])
  · rintro s s' b rest ⟨hm, hst, hf, hcrc, hdst⟩
    obtain ⟨hs', ha⟩ := nextMove_rxByte hm
    refine ⟨hs', ?_⟩
    have hwrong : s'.wrongId = s.wrongId := by rw [hs']
    have hout : s'.out = s.out := by rw [hs']
    rw [step_of_run hm, exec_rxByte_elsewhere ha hf hst hcrc (isForUs_eq_false.mpr hdst), hwrong, hout]

/-! ### The stand-alone CRC register -/

theorem rxByteN_crcReg (n : Nat) (s : State) : (rxByteN n s).crcReg = s.crcReg := by
  induction n generalizing s with
  | zero => rfl
  | succ n ih =>
    unfold rxByteN
    split
    · rw [ih]
      cases hf : s.inFifo with
      | nil => simp [rxByteStep, hf]
      | cons b rest =>
        obtain ⟨-, hcrc, -⟩ := rxTake_frame b { s with inFifo := rest }
        simpa [rxByteStep, hf] using hcrc
    · rfl

theorem exec_crcReg {i : Instr} {s t : State} (hinit : i ≠ .crcInit) (hupd : ∀ b, i ≠ .crcUpdate b) (hr : i ≠ .reset)
    (h : exec i s = .next t) : t.crcReg = s.crcReg := by
  cases i with
  | crcInit => exact absurd rfl hinit
  | crcUpdate b => exact absurd rfl (hupd b)
  | reset => exact absurd rfl hr
  | frameRead => obtain ⟨-, rfl⟩ | ⟨-, rfl⟩ := exec_frameRead_eq_next h <;> rfl
  | trRdone chunk => obtain ⟨-, -, rfl⟩ := exec_trRdone_eq_next h; rfl
  | trRerr => obtain ⟨-, rfl⟩ := exec_trRerr_eq_next h; rfl
  | rxFetch => obtain ⟨-, -, -, rfl⟩ := exec_rxFetch_eq_next h; rfl
  | rxByte =>
    obtain ⟨-, b, rest, -, rfl⟩ := exec_rxByte_eq_next h
    obtain ⟨-, hcrc, -⟩ := rxTake_frame b { s with inFifo := rest }
    exact hcrc
  | frame => cases h; exact rxByteN_crcReg ..
  | _ => rw [(exec_effects rfl h).outsideReceiver]

/-- Settles O51: no instruction but the three writes `crc_reg`, and CRC.INIT and CRC.UPDATE write nothing else. -/
theorem crcUnitAndReceiverAreSeparate : Obligations.CrcUnitAndReceiverAreSeparate := by
  intro i s t h
  refine ⟨fun hinit hupd hr => exec_crcReg hinit hupd hr h, ?_⟩
  rintro (rfl | ⟨b, rfl⟩) <;> cases h <;> rfl

/-! ### A receiver with no read outstanding -/

/-- `t` has the receiver's registers and the receive port of `s`, but for `rx_armed`, and no more read requests. -/
def ReceiverStill (s t : State) : Prop :=
  t.inFifo = s.inFifo ∧ t.rxState = s.rxState ∧ t.rxRaw = s.rxRaw ∧ t.rxPay = s.rxPay ∧ t.rxCrc = s.rxCrc ∧
    t.rxSrc = s.rxSrc ∧ t.rxDst = s.rxDst ∧ t.rxLen = s.rxLen ∧ t.rxVacc = s.rxVacc ∧ t.rxVn = s.rxVn ∧
    t.rxCrcLo = s.rxCrcLo ∧ t.trRdPending = s.trRdPending ∧ t.out.filter isReadReq = s.out.filter isReadReq

theorem ReceiverStill.refl (s : State) : ReceiverStill s s :=
  ⟨rfl, rfl, rfl, rfl, rfl, rfl, rfl, rfl, rfl, rfl, rfl, rfl, rfl⟩

theorem Effects.receiverStill {s t : State} (h : Effects s t) : ReceiverStill s t := by
  have hreq := h.readReqs_eq
  rw [h.outsideReceiver]
  exact ⟨rfl, rfl, rfl, rfl, rfl, rfl, rfl, rfl, rfl, rfl, rfl, rfl, hreq⟩

theorem exec_receiverStill {i : Instr} {s t : State} (hp : i.place = .command ∨ i.place = .trace) (hr : i ≠ .reset)
    (ha : s.rxArmed = false) (hpend : s.trRdPending = false) (h : exec i s = .next t) : ReceiverStill s t := by
  cases i with
  | crcInit | crcUpdate => cases h; exact .refl s
  | reset => exact absurd rfl hr
  | frameRead => obtain ⟨-, rfl⟩ | ⟨-, rfl⟩ := exec_frameRead_eq_next h <;> exact .refl s
  | trRdone chunk => obtain ⟨hq, -⟩ := exec_trRdone_eq_next h; simp [hpend] at hq
  | trRerr => obtain ⟨hq, -⟩ := exec_trRerr_eq_next h; simp [hpend] at hq
  | rxFetch => obtain ⟨hq, -⟩ := exec_rxFetch_eq_next h; simp [ha] at hq
  | rxByte => obtain ⟨hq, -⟩ := exec_rxByte_eq_next h; simp [ha] at hq
  | frame => simp [Instr.place] at hp
  | _ => exact (exec_effects rfl h).receiverStill

/-- Settles O32: unarmed, no internal step is enabled; with no read pending the transport's answers have no step; and no
other instruction writes the receiver or asks for bytes. -/
theorem unarmedReceiverIsStill : Obligations.UnarmedReceiverIsStill := by
  intro s t ha hpend hn h
  have hstill : ReceiverStill s t := by
    obtain ⟨i, s', hm, hk, hx⟩ | ⟨-, hk⟩ := step_eq_next h
    · have hs' := exec_receiverStill (nextMove_place hm) (ne_reset_of_notReset hn hm) (by rw [hk]; exact ha)
        (by rw [hk]; exact hpend) hx
      rw [hk] at hs'
      exact hs'
    · rw [hk]
      exact .refl s
  rw [ReceiverStill, hpend] at hstill
  exact hstill

/-! ### RESET -/

theorem exec_trRdone_of_idle {s : State} (chunk : List Byte) (h : s.trRdPending = false) :
    exec (.trRdone chunk) s = .refused .noReadOutstanding := by
  change execTrRdone chunk s = _
  simp [execTrRdone, h]

theorem exec_trRerr_of_idle {s : State} (h : s.trRdPending = false) :
    exec .trRerr s = .refused .noReadOutstanding := by
  change execTrRerr s = _
  simp [execTrRerr, h]

theorem exec_trWdone_of_idle {s : State} {o : OutCode} (ho : o = .ok ∨ o = .errTransport) (h : s.txBusy = false) :
    exec (.trWdone o) s = .refused .noWriteOutstanding := by
  change execTrWdone o s = _
  simp [execTrWdone, ho, h]

/-- Settles O46: the state after RESET is the constructed one but for what is the model's own; with no transport request
outstanding, an answer is refused. -/
theorem resetRestoresEveryElement : Obligations.ResetRestoresEveryElement :=
  ⟨fun _ => rfl, fun s =>
    ⟨{ State.init s.cfg with port := s.port, sched := s.sched, out := s.out }, rfl, rfl, rfl, rfl, rfl, rfl, rfl, rfl,
      rfl, rfl, rfl, rfl, rfl, rfl, rfl, rfl, rfl, rfl, rfl, rfl, rfl, rfl, rfl, rfl,
      fun chunk => exec_trRdone_of_idle chunk rfl, exec_trRerr_of_idle rfl, exec_trWdone_of_idle (.inl rfl) rfl,
      exec_trWdone_of_idle (.inr rfl) rfl⟩⟩

end Sys2Proof.Machine
end

section
/-! What a varuint's bytes say (30_encoding.md R87, 41_varuint.md R121 to R123): `vu_parse` reads exactly the sequences
of at most five base-128 groups with bit 7 set in all but the last, as their value, and `vu_enc` writes one. -/

namespace Sys2Proof.Machine

/-! ### The groups of a varuint -/

/-- Bit 7 is set in every byte but the last, and there is a last byte (30_encoding.md R87). -/
def Continued : List Byte → Prop
  | [] => False
  | [b] => b.toNat < 128
  | b :: c :: x => 128 ≤ b.toNat ∧ Continued (c :: x)

theorem continued_cons_of_le {b : Byte} {x : List Byte} (hb : 128 ≤ b.toNat) : Continued (b :: x) ↔ Continued x := by
  cases x with
  | nil => simpa [Continued] using hb
  | cons c x => simp [Continued, hb]

theorem continued_cons_of_lt {b : Byte} {x : List Byte} (hb : b.toNat < 128) : Continued (b :: x) ↔ x = [] := by
  cases x with
  | nil => simpa [Continued] using hb
  | cons c x => simp [Continued, hb]

theorem Continued.length_pos {x : List Byte} (h : Continued x) : 1 ≤ x.length := by
  cases x with
  | nil => exact h.elim
  | cons b x => simp

/-- Bit 7 of each byte says whether another byte follows. -/
theorem Continued.le_iff {x : List Byte} (h : Continued x) {i : Nat} {b : Byte} (hi : x[i]? = some b) :
    128 ≤ b.toNat ↔ i + 1 < x.length := by
  induction x generalizing i with
  | nil => exact h.elim
  | cons c x ih =>
    by_cases hc : 128 ≤ c.toNat
    · have hx : Continued x := (continued_cons_of_le hc).mp h
      cases i with
      | zero =>
        obtain rfl : c = b := by simpa using hi
        have hl := hx.length_pos
        simp only [hc, List.length_cons, true_iff]
        omega
      | succ i => simpa using ih hx (by simpa using hi)
    · obtain rfl : x = [] := (continued_cons_of_lt (by omega)).mp h
      obtain ⟨rfl, rfl⟩ : i = 0 ∧ c = b := by simpa [List.getElem?_singleton] using hi
      simpa using hc

theorem groupsValue_singleton {b : Byte} (hb : b.toNat < 128) : groupsValue [b] = b.toNat := by
  simp [groupsValue, Nat.mod_eq_of_lt hb]

/-! ### One byte -/

theorem shiftRight_eq_zero_iff {w : Nat} {v : BitVec w} {k : Nat} : v >>> k = 0 ↔ v.toNat < 2 ^ k := by
  rw [BitVec.toNat_eq, BitVec.toNat_ushiftRight, Nat.shiftRight_eq_div_pow]
  simp [Nat.div_eq_zero_iff]

theorem toNat_and_7F (b : Byte) : (b &&& 0x7F).toNat = b.toNat % 128 :=
  (BitVec.toNat_and ..).trans (Nat.and_two_pow_sub_one_eq_mod b.toNat 7)

theorem toNat_and_0F (b : Byte) : (b &&& 0x0F).toNat = b.toNat % 16 :=
  (BitVec.toNat_and ..).trans (Nat.and_two_pow_sub_one_eq_mod b.toNat 4)

/-- A group put above the bits already there adds its value times its weight. -/
theorem toNat_or_shift {acc : Word32} {g : Byte} {k : Nat} (hacc : acc.toNat < 2 ^ k)
    (hg : 2 ^ k * g.toNat < 2 ^ 32) :
    (acc ||| (g.setWidth 32 <<< k)).toNat = acc.toNat + 2 ^ k * g.toNat := by
  have hw : (g.setWidth 32).toNat = g.toNat := by
    rw [BitVec.toNat_setWidth, Nat.mod_eq_of_lt (by omega)]
  rw [BitVec.toNat_or, BitVec.toNat_shiftLeft, hw, Nat.shiftLeft_eq, Nat.mul_comm, Nat.mod_eq_of_lt hg, Nat.lor_comm,
    ← Nat.two_pow_add_eq_or_of_lt hacc, Nat.add_comm]

/-- All that `vu_step` can answer, in numbers: a byte with bit 7 set before the fifth is one more group; one without it
is the last group; and a fifth byte above 15 is an error (41_varuint.md R122). -/
theorem vuStep_value {acc : Word32} {n : Fin 5} (b : Byte) (hacc : acc.toNat < 2 ^ (7 * n.val)) :
    (n.val < 4 ∧ 128 ≤ b.toNat ∧ ∃ a, vuStep acc n b = (a, n + 1, .more) ∧
        a.toNat = acc.toNat + 2 ^ (7 * n.val) * (b.toNat % 128)) ∨
      (b.toNat < 128 ∧ ∃ v, vuStep acc n b = (0, 0, .done v) ∧
        v.toNat = acc.toNat + 2 ^ (7 * n.val) * b.toNat) ∨
      (n.val = 4 ∧ 16 ≤ b.toNat ∧ vuStep acc n b = (0, 0, .err)) := by
  unfold vuStep
  by_cases hn : n = 4
  · subst hn
    have hb : b >>> 4 = 0 ↔ b.toNat < 16 := shiftRight_eq_zero_iff
    by_cases h16 : b.toNat < 16
    · refine .inr (.inl ⟨by omega, _, by rw [if_pos rfl, if_neg (not_not.mpr (hb.mpr h16))], ?_⟩)
      have hg : (b &&& 0x0F).toNat = b.toNat := by rw [toNat_and_0F, Nat.mod_eq_of_lt h16]
      exact (toNat_or_shift (k := 28) hacc (by rw [hg]; omega)).trans (by rw [hg]; rfl)
    · exact .inr (.inr ⟨rfl, by omega, by rw [if_pos rfl, if_pos (mt hb.mp h16)]⟩)
  · have hn4 : n.val < 4 := by omega
    have hval : (acc ||| ((b &&& 0x7F).setWidth 32 <<< (7 * n.val))).toNat =
        acc.toNat + 2 ^ (7 * n.val) * (b.toNat % 128) := by
      have hw : 2 ^ (7 * n.val) ≤ 2 ^ 21 := Nat.pow_le_pow_right (by omega) (by omega)
      have hfit : 2 ^ (7 * n.val) * (b.toNat % 128) ≤ 2 ^ 21 * 127 := Nat.mul_le_mul hw (by omega)
      rw [toNat_or_shift hacc (by rw [toNat_and_7F]; omega), toNat_and_7F]
    simp only [hn, if_false]
    by_cases hb : 128 ≤ b.toNat
    · exact .inl ⟨hn4, hb, _, by rw [if_pos (by rw [BitVec.msb_eq_decide]; simpa using hb)], hval⟩
    · refine .inr (.inl ⟨by omega, _, by rw [if_neg (by rw [BitVec.msb_eq_decide]; simpa using hb)], ?_⟩)
      rw [hval, Nat.mod_eq_of_lt (by omega)]

/-! ### `vu_parse` -/

/-- What `vu_parse` reads with a value begun: the groups that are left, and no more than fit. -/
theorem vuParseFrom_eq_ok_nil {acc : Word32} {n : Fin 5} {x : List Byte} {v : Word32}
    (hacc : acc.toNat < 2 ^ (7 * n.val)) :
    vuParseFrom acc n x = .ok v [] ↔
      Continued x ∧ n.val + x.length ≤ 5 ∧ v.toNat = acc.toNat + 2 ^ (7 * n.val) * groupsValue x := by
  induction x generalizing acc n with
  | nil => simp [vuParseFrom, Continued]
  | cons b x ih =>
    rw [vuParseFrom]
    obtain ⟨hn, hb, a, hs, ha⟩ | ⟨hb, w, hs, hw⟩ | ⟨hn, hb, hs⟩ := vuStep_value b hacc <;> rw [hs]
    · have hn' : (n + 1).val = n.val + 1 := val_add_one_of_ne_four (by omega)
      have hpow : 2 ^ (7 * (n.val + 1)) = 2 ^ (7 * n.val) * 128 := by rw [Nat.mul_add, Nat.pow_add]
      have hfit : acc.toNat + 2 ^ (7 * n.val) * (b.toNat % 128) < 2 ^ (7 * n.val) * 128 :=
        calc
          _ < 2 ^ (7 * n.val) + 2 ^ (7 * n.val) * (b.toNat % 128) := by omega
          _ = 2 ^ (7 * n.val) * (b.toNat % 128 + 1) := by ring
          _ ≤ _ := Nat.mul_le_mul_left _ (by omega)
      have hsum : a.toNat + 2 ^ (7 * (n.val + 1)) * groupsValue x =
          acc.toNat + 2 ^ (7 * n.val) * groupsValue (b :: x) := by rw [ha, hpow, groupsValue]; ring
      simp only [ih (acc := a) (n := n + 1) (by rw [hn', hpow, ha]; exact hfit), hn', hsum, continued_cons_of_le hb,
        List.length_cons]
      rw [show n.val + 1 + x.length = n.val + (x.length + 1) by omega]
    · have hg := groupsValue_singleton hb
      rw [continued_cons_of_lt hb]
      constructor
      · rintro ⟨⟩
        exact ⟨rfl, by simp, by rw [hw, hg]⟩
      · rintro ⟨rfl, -, hv⟩
        rw [BitVec.eq_of_toNat_eq (hw.trans (by rw [hv, hg]))]
    · simp only [hn, List.length_cons, reduceCtorEq, false_iff, not_and]
      intro hc hl hv
      obtain rfl : x = [] := List.eq_nil_of_length_eq_zero (by omega)
      rw [groupsValue_singleton hc] at hv
      have := v.isLt
      omega

/-- What spells a value: one to five groups that mean it (30_encoding.md R87). -/
theorem vuSpells_iff {v : Word32} {x : List Byte} :
    VuSpells v x ↔ Continued x ∧ x.length ≤ 5 ∧ v.toNat = groupsValue x := by
  unfold VuSpells vuParse
  simpa using vuParseFrom_eq_ok_nil (acc := 0) (n := 0) (x := x) (v := v) (by decide)

theorem VuSpells.parse_append {v : Word32} {x : List Byte} (h : VuSpells v x) (rest : List Byte) :
    vuParse (x ++ rest) = .ok v rest := vuParseFrom_append rest h

/-- Settles O6: the bytes read are an encoding, and what spells a value is known. -/
theorem varuintValueIsBase128 : Obligations.VaruintValueIsBase128 := by
  intro s v rest h
  obtain ⟨x, rfl, hx⟩ := vuParse_eq_ok.mp h
  obtain ⟨hc, hl, hv⟩ := vuSpells_iff.mp hx
  exact ⟨x, rfl, hc.length_pos, hl, hv, fun _ _ hi => hc.le_iff hi⟩

/-! ### `vu_enc` -/

/-- One round of `vu_enc` (41_varuint.md R121): a group with bit 7 set while more is left, or the last group. -/
theorem vuEncFrom_succ (n : Nat) (v : Word32) :
    (v.toNat < 128 ∧ ∃ b : Byte, b.toNat = v.toNat ∧ vuEncFrom (n + 1) v = [b]) ∨
      (128 ≤ v.toNat ∧ ∃ b : Byte, 128 ≤ b.toNat ∧ b.toNat % 128 = v.toNat % 128 ∧
        vuEncFrom (n + 1) v = b :: vuEncFrom n (v >>> 7)) := by
  have hg : (v.setWidth 8 &&& 0x7F : Byte).toNat = v.toNat % 128 := by
    rw [toNat_and_7F, BitVec.toNat_setWidth, Nat.mod_mod_of_dvd _ (by decide)]
  have hz : v >>> 7 = 0 ↔ v.toNat < 128 := shiftRight_eq_zero_iff
  rw [vuEncFrom]
  by_cases hv : v.toNat < 128
  · exact .inl ⟨hv, _, by rw [hg, Nat.mod_eq_of_lt hv], if_neg (not_not.mpr (hz.mpr hv))⟩
  · have hb : (0x80 ||| (v.setWidth 8 &&& 0x7F) : Byte).toNat = 128 + v.toNat % 128 := by
      rw [BitVec.toNat_or, hg]
      exact (Nat.two_pow_add_eq_or_of_lt (i := 7) (Nat.mod_lt _ (by decide)) 1).symm
    exact .inr ⟨by omega, _, by omega, by omega, if_pos (mt hz.mp hv)⟩

theorem toNat_shiftRight_7 (v : Word32) : (v >>> 7).toNat = v.toNat / 128 := by
  rw [BitVec.toNat_ushiftRight, Nat.shiftRight_eq_div_pow]

/-- A value of one group is spelled by it. -/
theorem continued_singleton_spec {n : Nat} {b : Byte} {v : Word32} (hb : b.toNat = v.toNat) (hv : v.toNat < 128) :
    Continued [b] ∧ [b].length ≤ n + 1 ∧ groupsValue [b] = v.toNat := by
  rw [← hb] at hv ⊢
  exact ⟨hv, by simp, groupsValue_singleton hv⟩

/-- With rounds enough for its groups, `vu_enc` writes them all (41_varuint.md R121). -/
theorem vuEncFrom_spec (n : Nat) {v : Word32} (h : v.toNat < 128 ^ (n + 1)) :
    Continued (vuEncFrom (n + 1) v) ∧ (vuEncFrom (n + 1) v).length ≤ n + 1 ∧
      groupsValue (vuEncFrom (n + 1) v) = v.toNat := by
  induction n generalizing v with
  | zero =>
    obtain ⟨hv, b, hb, he⟩ | ⟨hv, -⟩ := vuEncFrom_succ 0 v
    · rw [he]
      exact continued_singleton_spec hb hv
    · omega
  | succ n ih =>
    obtain ⟨hv, b, hb, he⟩ | ⟨hv, b, hb, hm, he⟩ := vuEncFrom_succ (n + 1) v
    · rw [he]
      exact continued_singleton_spec hb hv
    · obtain ⟨hc, hl, hg⟩ := ih (v := v >>> 7) (by rw [toNat_shiftRight_7]; rw [pow_succ] at h; omega)
      rw [he]
      refine ⟨(continued_cons_of_le hb).mpr hc, by simpa using hl, ?_⟩
      rw [groupsValue, hg, hm, toNat_shiftRight_7]
      omega

/-- `vu_enc` writes an encoding of its value (41_varuint.md R121). -/
theorem vuEnc_spells (v : Word32) : VuSpells v (vuEnc v) := by
  obtain ⟨hc, hl, hg⟩ := vuEncFrom_spec 4 (v := v) (by have := v.isLt; omega)
  exact vuSpells_iff.mpr ⟨hc, hl, hg.symm⟩

/-- Each round of `vu_enc` writes one byte. -/
theorem vuEncFrom_length_succ (n : Nat) (v : Word32) :
    (vuEncFrom (n + 1) v).length = if v.toNat < 128 then 1 else 1 + (vuEncFrom n (v >>> 7)).length := by
  obtain ⟨hv, b, -, he⟩ | ⟨hv, b, -, -, he⟩ := vuEncFrom_succ n v
  · simp [he, hv]
  · simp [he, Nat.not_lt.mpr hv, Nat.add_comm]

/-- `vu_len` is the number of bytes that `vu_enc` writes (41_varuint.md R120). -/
theorem vuEnc_length (v : Word32) : (vuEnc v).length = vuLen v.toNat := by
  have hv := v.isLt
  rw [vuEnc, vuLen]
  repeat rw [vuEncFrom_length_succ]
  simp only [toNat_shiftRight_7]
  split_ifs <;> omega

end Sys2Proof.Machine
end

section
/-! What `parse_subframe` reads (43_demux.md R183): exactly the encodings of a subframe, and at which bytes it stops
(30_encoding.md R76 to R85). -/

namespace Sys2Proof.Machine

/-! ### Fields -/

theorem fix_append_of_length {m : Nat} {d : List Byte} (h : d.length = m) (r : List Byte) : fix m (d ++ r) = .ok d r :=
  fix_eq_ok.mpr ⟨rfl, h⟩

theorem fix_of_lt {m : Nat} {s : List Byte} (h : s.length < m) : fix m s = .err .truncated :=
  if_neg (Nat.not_le.mpr h)

theorem toNat_ofNat_length {d : List Byte} (h : fits32 d) : (BitVec.ofNat 32 d.length).toNat = d.length :=
  Nat.mod_eq_of_lt h

@[simp] theorem takeB8_cons (b : Byte) (r : List Byte) : takeB8 (b :: r) = .ok b r := rfl

theorem takeB8_eq_ok {s r : List Byte} {b : Byte} : takeB8 s = .ok b r ↔ s = b :: r := by
  cases s <;> simp [takeB8]

/-! ### Tags (30_encoding.md R76) -/

/-- A tag is its group's base plus its type index. -/
theorem group_add_typeBits : ∀ tag : Byte, (tag &&& 0xFC) + typeBits (typeOfTag tag) = tag := by decide

/-- The base of a tag's group, in numbers. -/
theorem toNat_and_FC : ∀ tag : Byte, (tag &&& 0xFC).toNat = tag.toNat / 4 * 4 := by decide

/-- The tags with no body layout (30_encoding.md R85): the last row of R76. -/
abbrev UnassignedTag (tag : Byte) : Prop :=
  tag.toNat < 0x10 ∨ 0x24 ≤ tag.toNat ∧ tag.toNat ≤ 0x27 ∨ 0x29 ≤ tag.toNat ∧ tag.toNat ≤ 0x3F ∨ 0x42 ≤ tag.toNat

/-- The tags with a body layout: the other rows of R76. -/
inductive AssignedTag : Byte → Prop
  | writeSingle (t : TypeIndex) : AssignedTag (0x10 + typeBits t)
  | writeMultiple (t : TypeIndex) : AssignedTag (0x14 + typeBits t)
  | readSingle (t : TypeIndex) : AssignedTag (0x18 + typeBits t)
  | readMultiple (t : TypeIndex) : AssignedTag (0x1C + typeBits t)
  | replySingle (t : TypeIndex) : AssignedTag (0x20 + typeBits t)
  | writeError : AssignedTag 0x28
  | tunnelC2s : AssignedTag 0x40
  | tunnelS2c : AssignedTag 0x41

/-- Every tag is assigned or unassigned. -/
theorem assignedTag_or (tag : Byte) : AssignedTag tag ∨ UnassignedTag tag := by
  have hsum := group_add_typeBits tag
  have hnat := toNat_and_FC tag
  have htag := tag.isLt
  by_cases h10 : tag &&& 0xFC = 0x10
  · exact .inl (by rw [← hsum, h10]; exact .writeSingle _)
  by_cases h14 : tag &&& 0xFC = 0x14
  · exact .inl (by rw [← hsum, h14]; exact .writeMultiple _)
  by_cases h18 : tag &&& 0xFC = 0x18
  · exact .inl (by rw [← hsum, h18]; exact .readSingle _)
  by_cases h1C : tag &&& 0xFC = 0x1C
  · exact .inl (by rw [← hsum, h1C]; exact .readMultiple _)
  by_cases h20 : tag &&& 0xFC = 0x20
  · exact .inl (by rw [← hsum, h20]; exact .replySingle _)
  by_cases h28 : tag = 0x28
  · exact .inl (by rw [h28]; exact .writeError)
  by_cases h40 : tag = 0x40
  · exact .inl (by rw [h40]; exact .tunnelC2s)
  by_cases h41 : tag = 0x41
  · exact .inl (by rw [h41]; exact .tunnelS2c)
  right
  rw [← BitVec.toNat_inj, hnat] at h10 h14 h18 h1C h20
  rw [← BitVec.toNat_inj] at h28 h40 h41
  simp only [BitVec.ofNat_eq_ofNat, BitVec.reduceToNat] at *
  omega

/-! ### `parse_subframe` by tag -/

section
variable (t : TypeIndex) (r : List Byte)

theorem parseSubframe_writeSingle : parseSubframe ((0x10 + typeBits t) :: r) =
    (vuParse r).andThen fun reg r => (fix (scalarSize t) r).map (.writeSingle t reg) := by
  cases t <;> rfl

theorem parseSubframe_writeMultiple : parseSubframe ((0x14 + typeBits t) :: r) =
    (vuParse r).andThen fun start r => (vuParse r).andThen fun count r =>
      (fix (count.toNat * scalarSize t) r).map (.writeMultiple t start count) := by
  cases t <;> rfl

theorem parseSubframe_readSingle : parseSubframe ((0x18 + typeBits t) :: r) = (vuParse r).map (.readSingle t) := by
  cases t <;> rfl

theorem parseSubframe_readMultiple : parseSubframe ((0x1C + typeBits t) :: r) =
    (vuParse r).andThen fun start r => (vuParse r).map (.readMultiple t start) := by
  cases t <;> rfl

theorem parseSubframe_replySingle : parseSubframe ((0x20 + typeBits t) :: r) =
    (vuParse r).andThen fun reg r => (fix (scalarSize t) r).map (.replySingle t reg) := by
  cases t <;> rfl

theorem parseSubframe_writeError : parseSubframe (0x28 :: r) =
    (vuParse r).andThen fun reg r => (takeB8 r).map (.writeError reg) := rfl

theorem parseSubframe_tunnelC2s : parseSubframe (0x40 :: r) =
    (vuParse r).andThen fun ch r => (vuParse r).andThen fun n r => (fix n.toNat r).map (.tunnelC2s ch) := rfl

theorem parseSubframe_tunnelS2c : parseSubframe (0x41 :: r) =
    (vuParse r).andThen fun ch r => (vuParse r).andThen fun n r => (fix n.toNat r).map (.tunnelS2c ch) := rfl

end

theorem parseSubframe_unassigned {tag : Byte} (h : UnassignedTag tag) (r : List Byte) :
    parseSubframe (tag :: r) = .err (.unassignedTag tag) := by
  have hgroup (base : Byte) (hb : 0x10 ≤ base.toNat ∧ base.toNat ≤ 0x20) (h4 : base.toNat % 4 = 0) :
      tag &&& 0xFC ≠ base := by
    rintro rfl
    rw [toNat_and_FC] at hb
    omega
  have hone (base : Byte) (hb : ¬ UnassignedTag base) : tag ≠ base := by
    rintro rfl
    exact hb h
  simp (disch := decide) only [parseSubframe, hgroup, hone, if_false]

/-- No body parser answers that a tag is unassigned. -/
def NoTagError {α : Type} (p : Parse α) : Prop := ∀ tag, p ≠ .err (.unassignedTag tag)

namespace NoTagError

theorem andThen {α β : Type} {p : Parse α} {k : α → List Byte → Parse β} (hp : NoTagError p)
    (hk : ∀ v r, NoTagError (k v r)) : NoTagError (p.andThen k) := by
  cases p with
  | ok v r => exact hk v r
  | err e => exact fun tag h => hp tag (congrArg Parse.err (Parse.err.inj h))

theorem map {α β : Type} {p : Parse α} {f : α → β} (hp : NoTagError p) : NoTagError (p.map f) := by
  cases p with
  | ok v r => exact nofun
  | err e => exact fun tag h => hp tag (congrArg Parse.err (Parse.err.inj h))

theorem ofFix (m : Nat) (s : List Byte) : NoTagError (fix m s) := by
  unfold fix
  split <;> exact nofun

theorem ofTakeB8 (s : List Byte) : NoTagError (takeB8 s) := by
  cases s <;> exact nofun

theorem ofVuParse (s : List Byte) : NoTagError (vuParse s) := by
  unfold vuParse
  generalize (0 : Word32) = acc, (0 : Fin 5) = n
  induction s generalizing acc n with
  | nil => exact nofun
  | cons b s ih =>
    rw [vuParseFrom]
    split
    · exact ih _ _
    · exact nofun
    · exact nofun

end NoTagError

theorem AssignedTag.noTagError {tag : Byte} (h : AssignedTag tag) (r : List Byte) :
    NoTagError (parseSubframe (tag :: r)) := by
  cases h with
  | writeSingle t => rw [parseSubframe_writeSingle]; exact .andThen (.ofVuParse _) fun _ _ => .map (.ofFix _ _)
  | writeMultiple t =>
    rw [parseSubframe_writeMultiple]
    exact .andThen (.ofVuParse _) fun _ _ => .andThen (.ofVuParse _) fun _ _ => .map (.ofFix _ _)
  | readSingle t => rw [parseSubframe_readSingle]; exact .map (.ofVuParse _)
  | readMultiple t => rw [parseSubframe_readMultiple]; exact .andThen (.ofVuParse _) fun _ _ => .map (.ofVuParse _)
  | replySingle t => rw [parseSubframe_replySingle]; exact .andThen (.ofVuParse _) fun _ _ => .map (.ofFix _ _)
  | writeError => exact .andThen (.ofVuParse _) fun _ _ => .map (.ofTakeB8 _)
  | tunnelC2s | tunnelS2c =>
    exact .andThen (.ofVuParse _) fun _ _ => .andThen (.ofVuParse _) fun _ _ => .map (.ofFix _ _)

/-- Settles O35: a tag is assigned or not, and only an unassigned one is answered as such; and a WriteMultiple body is
`FIX` of the count times the size, on unbounded integers. -/
theorem bytesThatStopTheWalk : Obligations.BytesThatStopTheWalk := by
  refine ⟨fun tag rest => ⟨fun h => parseSubframe_unassigned h rest, fun h => ?_⟩, fun t start count body h => ?_⟩
  · exact (assignedTag_or tag).resolve_left fun ha => ha.noTagError rest tag h
  · rw [parseSubframe_writeMultiple, (vuEnc_spells start).parse_append, Parse.andThen_ok,
      (vuEnc_spells count).parse_append, Parse.andThen_ok, fix_of_lt h, Parse.map_err]

/-! ### The encodings of a subframe -/

/-- What has an encoding is well-formed. -/
theorem Spells.wf {sub : Subframe} {bytes : List Byte} (h : Spells sub bytes) : sub.wf = true := by
  cases sub with
  | writeSingle | replySingle =>
    obtain ⟨-, -, hl, -⟩ := h
    exact decide_eq_true hl
  | writeMultiple =>
    obtain ⟨-, -, -, -, hl, -⟩ := h
    exact decide_eq_true hl
  | readSingle | readMultiple | writeError => rfl
  | tunnelC2s | tunnelS2c =>
    obtain ⟨-, -, n, -, -, hl, -⟩ := h
    exact decide_eq_true (by rw [fits32, hl]; exact n.isLt)

/-- An encoding is read as its subframe, whatever comes after it. -/
theorem Spells.parse_append {sub : Subframe} {bytes : List Byte} (h : Spells sub bytes) (rest : List Byte) :
    parseSubframe (bytes ++ rest) = .ok sub rest := by
  cases sub with
  | writeSingle t | replySingle t =>
    obtain ⟨x, hx, hl, rfl⟩ := h
    simp only [List.cons_append, List.append_assoc, parseSubframe_writeSingle, parseSubframe_replySingle,
      hx.parse_append, fix_append_of_length hl, Parse.andThen_ok, Parse.map_ok]
  | writeMultiple t =>
    obtain ⟨x, y, hx, hy, hl, rfl⟩ := h
    simp only [List.cons_append, List.append_assoc, parseSubframe_writeMultiple, hx.parse_append, hy.parse_append,
      fix_append_of_length hl, Parse.andThen_ok, Parse.map_ok]
  | readSingle t =>
    obtain ⟨x, hx, rfl⟩ := h
    simp only [List.cons_append, parseSubframe_readSingle, hx.parse_append, Parse.map_ok]
  | readMultiple t =>
    obtain ⟨x, y, hx, hy, rfl⟩ := h
    simp only [List.cons_append, List.append_assoc, parseSubframe_readMultiple, hx.parse_append, hy.parse_append,
      Parse.andThen_ok, Parse.map_ok]
  | writeError =>
    obtain ⟨x, hx, rfl⟩ := h
    simp only [List.cons_append, List.append_assoc, List.nil_append, parseSubframe_writeError, hx.parse_append,
      takeB8_cons, Parse.andThen_ok, Parse.map_ok]
  | tunnelC2s | tunnelS2c =>
    obtain ⟨x, y, n, hx, hy, hl, rfl⟩ := h
    simp only [List.cons_append, List.append_assoc, parseSubframe_tunnelC2s, parseSubframe_tunnelS2c, hx.parse_append,
      hy.parse_append, fix_append_of_length hl, Parse.andThen_ok, Parse.map_ok]

/-- What `parse_subframe` reads at an assigned tag is an encoding. -/
theorem AssignedTag.exists_spells {tag : Byte} (ha : AssignedTag tag) {r rest : List Byte} {sub : Subframe}
    (h : parseSubframe (tag :: r) = .ok sub rest) : ∃ enc, Spells sub enc ∧ tag :: r = enc ++ rest := by
  cases ha with
  | writeSingle t | replySingle t =>
    simp only [parseSubframe_writeSingle, parseSubframe_replySingle, Parse.andThen_eq_ok, Parse.map_eq_ok,
      vuParse_eq_ok, fix_eq_ok] at h
    obtain ⟨reg, _, ⟨x, rfl, hx⟩, d, ⟨rfl, hl⟩, rfl⟩ := h
    exact ⟨_, ⟨x, hx, hl, rfl⟩, by simp⟩
  | writeMultiple t =>
    simp only [parseSubframe_writeMultiple, Parse.andThen_eq_ok, Parse.map_eq_ok, vuParse_eq_ok,
      fix_eq_ok] at h
    obtain ⟨start, _, ⟨x, rfl, hx⟩, count, _, ⟨y, rfl, hy⟩, d, ⟨rfl, hl⟩, rfl⟩ := h
    exact ⟨_, ⟨x, y, hx, hy, hl, rfl⟩, by simp⟩
  | readSingle t =>
    simp only [parseSubframe_readSingle, Parse.map_eq_ok, vuParse_eq_ok] at h
    obtain ⟨reg, ⟨x, rfl, hx⟩, rfl⟩ := h
    exact ⟨_, ⟨x, hx, rfl⟩, rfl⟩
  | readMultiple t =>
    simp only [parseSubframe_readMultiple, Parse.andThen_eq_ok, Parse.map_eq_ok, vuParse_eq_ok] at h
    obtain ⟨start, _, ⟨x, rfl, hx⟩, count, ⟨y, rfl, hy⟩, rfl⟩ := h
    exact ⟨_, ⟨x, y, hx, hy, rfl⟩, by simp⟩
  | writeError =>
    simp only [parseSubframe_writeError, Parse.andThen_eq_ok, Parse.map_eq_ok, vuParse_eq_ok,
      takeB8_eq_ok] at h
    obtain ⟨reg, _, ⟨x, rfl, hx⟩, code, rfl, rfl⟩ := h
    exact ⟨_, ⟨x, hx, rfl⟩, by simp⟩
  | tunnelC2s | tunnelS2c =>
    simp only [parseSubframe_tunnelC2s, parseSubframe_tunnelS2c, Parse.andThen_eq_ok, Parse.map_eq_ok,
      vuParse_eq_ok, fix_eq_ok] at h
    obtain ⟨ch, _, ⟨x, rfl, hx⟩, n, _, ⟨y, rfl, hy⟩, d, ⟨rfl, hl⟩, rfl⟩ := h
    exact ⟨_, ⟨x, y, n, hx, hy, hl, rfl⟩, by simp⟩

/-- `parse_subframe` reads exactly the encodings of a subframe (30_encoding.md R76 to R84). -/
theorem parseSubframe_eq_ok {bytes rest : List Byte} {sub : Subframe} :
    parseSubframe bytes = .ok sub rest ↔ ∃ enc, Spells sub enc ∧ bytes = enc ++ rest := by
  constructor
  · intro h
    cases bytes with
    | nil => cases h
    | cons tag r =>
      obtain ha | hu := assignedTag_or tag
      · exact ha.exists_spells h
      · rw [parseSubframe_unassigned hu] at h
        cases h
  · rintro ⟨enc, hs, rfl⟩
    exact hs.parse_append rest

/-- Settles O60: `parse_subframe` reads exactly the encodings, and the payload decoder answers its subframe's row. -/
theorem subframeParsesExactlyItsSpellings : Obligations.SubframeParsesExactlyItsSpellings := by
  refine ⟨fun _ _ _ => parseSubframe_eq_ok, fun bytes i rest => ?_, fun _ _ => Spells.wf, [0x81, 0x00], rfl, rfl⟩
  change (parseSubframe bytes).map Instr.ofSubframe = .ok i rest ↔ _
  simp only [Parse.map_eq_ok, parseSubframe_eq_ok]
  constructor
  · rintro ⟨sub, ⟨enc, hs, hb⟩, rfl⟩
    exact ⟨sub, enc, rfl, hs, hb⟩
  · rintro ⟨sub, enc, rfl, hs, hb⟩
    exact ⟨sub, ⟨enc, hs, hb⟩, rfl⟩

/-- A group's base and a type index share no bits, so the tag is their sum. -/
theorem or_typeBits {base : Byte} (h : base &&& 0x03 = 0) (t : TypeIndex) :
    base ||| typeBits t = base + typeBits t := by
  have ht : 0x03 &&& typeBits t = typeBits t := by cases t <;> rfl
  have hand : base &&& typeBits t = 0 := by
    rw [← ht, ← BitVec.and_assoc, h]
    exact BitVec.zero_and
  exact (BitVec.add_eq_or_of_and_eq_zero _ _ hand).symm

/-- The encoder's bytes, its varuints minimal, are an encoding of the subframe (41_varuint.md R121). -/
theorem encodeSubframe_spells {sub : Subframe} (h : sub.wf = true) : Spells sub (encodeSubframe sub) := by
  cases sub with
  | writeSingle t reg value =>
    exact ⟨_, vuEnc_spells reg, of_decide_eq_true h, congrArg (· :: _) (or_typeBits rfl t)⟩
  | writeMultiple t start count values =>
    exact ⟨_, _, vuEnc_spells start, vuEnc_spells count, of_decide_eq_true h, congrArg (· :: _) (or_typeBits rfl t)⟩
  | readSingle t reg => exact ⟨_, vuEnc_spells reg, congrArg (· :: _) (or_typeBits rfl t)⟩
  | readMultiple t start count =>
    exact ⟨_, _, vuEnc_spells start, vuEnc_spells count, congrArg (· :: _) (or_typeBits rfl t)⟩
  | replySingle t reg value =>
    exact ⟨_, vuEnc_spells reg, of_decide_eq_true h, congrArg (· :: _) (or_typeBits rfl t)⟩
  | writeError reg code => exact ⟨_, vuEnc_spells reg, rfl⟩
  | tunnelC2s ch data | tunnelS2c ch data =>
    have hfits : fits32 data := of_decide_eq_true h
    exact ⟨_, _, _, vuEnc_spells ch, vuEnc_spells _, (toNat_ofNat_length hfits).symm, rfl⟩

end Sys2Proof.Machine
end

section
/-! The encodings of instructions (30_encoding.md R70, R88 to R90): on the command port, in a trace and on the wire,
what decodes is exactly the encoding of a well-formed instruction. -/

namespace Sys2Proof.Machine

/-! ### Fields in wire order (20_memory.md R52) -/

theorem ofLe16_le16 (v : Word16) : ofLe16 (v.extractLsb' 0 8) (v.extractLsb' 8 8) = v :=
  (BitVec.extractLsb'_append_extractLsb'_eq_extractLsb' rfl).trans BitVec.extractLsb'_eq_self

theorem le16_ofLe16 (lo hi : Byte) : le16 (ofLe16 lo hi) = [lo, hi] := by
  rw [le16, ofLe16, BitVec.extractLsb'_append_eq_right (w := 8) (w' := 8),
    BitVec.extractLsb'_append_eq_left (w := 8) (w' := 8)]

theorem ofLe32_le32 (v : Word32) :
    ofLe32 (v.extractLsb' 0 8) (v.extractLsb' 8 8) (v.extractLsb' 16 8) (v.extractLsb' 24 8) = v := by
  have h16 : (v.extractLsb' 8 8 ++ v.extractLsb' 0 8 : BitVec 16) = v.extractLsb' 0 16 :=
    BitVec.extractLsb'_append_extractLsb'_eq_extractLsb' rfl
  have h24 : (v.extractLsb' 16 8 ++ v.extractLsb' 0 16 : BitVec 24) = v.extractLsb' 0 24 :=
    BitVec.extractLsb'_append_extractLsb'_eq_extractLsb' rfl
  have h32 : (v.extractLsb' 24 8 ++ v.extractLsb' 0 24 : BitVec 32) = v.extractLsb' 0 32 :=
    BitVec.extractLsb'_append_extractLsb'_eq_extractLsb' rfl
  rw [ofLe32, h16, h24, h32, BitVec.extractLsb'_eq_self]

theorem le32_ofLe32 (b0 b1 b2 b3 : Byte) : le32 (ofLe32 b0 b1 b2 b3) = [b0, b1, b2, b3] := by
  simp [le32, ofLe32, BitVec.extractLsb'_append_eq_of_add_le (v := 8) (w := 24),
    BitVec.extractLsb'_append_eq_of_add_le (v := 8) (w := 16), BitVec.extractLsb'_append_eq_left (w := 8) (w' := 24),
    BitVec.extractLsb'_append_eq_left (w := 8) (w' := 16), BitVec.extractLsb'_append_eq_left (w := 8) (w' := 8),
    BitVec.extractLsb'_append_eq_right (w := 8) (w' := 8)]

/-! ### Operands (30_encoding.md R88, R90) -/

@[simp] theorem takeU32_le32 (v : Word32) (r : List Byte) : takeU32 (le32 v ++ r) = .ok v r :=
  congrArg (Parse.ok · r) (ofLe32_le32 v)

theorem takeU32_eq_ok {s r : List Byte} {v : Word32} : takeU32 s = .ok v r ↔ s = le32 v ++ r := by
  constructor
  · intro h
    unfold takeU32 at h
    split at h <;> cases h
    rw [le32_ofLe32]
    rfl
  · rintro rfl
    exact takeU32_le32 v r

theorem takeSeq_seqBytes {d : List Byte} (h : fits32 d) (r : List Byte) : takeSeq (seqBytes d ++ r) = .ok d r := by
  rw [takeSeq, seqBytes, List.append_assoc, takeU32_le32, Parse.andThen_ok, toNat_ofNat_length h, fix_append]

theorem takeSeq_eq_ok {s d r : List Byte} : takeSeq s = .ok d r ↔ fits32 d ∧ s = seqBytes d ++ r := by
  constructor
  · intro h
    obtain ⟨n, r', hn, hd⟩ := Parse.andThen_eq_ok.mp h
    obtain rfl := takeU32_eq_ok.mp hn
    obtain ⟨rfl, hl⟩ := fix_eq_ok.mp hd
    refine ⟨by rw [fits32, hl]; exact n.isLt, ?_⟩
    rw [seqBytes, hl, BitVec.ofNat_toNat, BitVec.setWidth_eq, List.append_assoc]
  · rintro ⟨h, rfl⟩
    exact takeSeq_seqBytes h r

theorem takeOut8_eq_ok {s r : List Byte} {o : OutCode} :
    takeOut8 s = .ok o r ↔ (o = .ok ∨ o = .errTransport) ∧ s = outByte o :: r := by
  constructor
  · intro h
    cases s with
    | nil => cases h
    | cons b s =>
      simp only [takeOut8] at h
      split_ifs at h with h0 h1 <;> cases h
      · exact ⟨.inl rfl, by rw [h0]; rfl⟩
      · exact ⟨.inr rfl, by rw [h1]; rfl⟩
  · rintro ⟨rfl | rfl, rfl⟩ <;> rfl

/-! ### The command port (30_encoding.md R89) -/

/-- What the parser answers was exactly the encoding of a well-formed instruction. -/
def ReadsEncoding (bytes : List Byte) (p : Parse Instr) : Prop :=
  ∀ i rest, p = .ok i rest → i.wf = true ∧ encode i ++ rest = bytes

/-- A row of the opcode table is read where its opcode stands. -/
theorem ReadsEncoding.ite {op c : Byte} {r : List Byte} {p q : Parse Instr} (hp : ReadsEncoding (c :: r) p)
    (hq : ReadsEncoding (op :: r) q) : ReadsEncoding (op :: r) (if op = c then p else q) := by
  split
  · next h => rwa [h]
  · exact hq

theorem ReadsEncoding.err {bytes : List Byte} {e : DecodeError} : ReadsEncoding bytes (.err e) := nofun

theorem decodeCommand_readsEncoding (bytes : List Byte) : ReadsEncoding bytes (decodeCommand bytes) := by
  cases bytes with
  | nil => exact .err
  | cons op r =>
    dsimp only [decodeCommand]
    refine
      .ite ?crcInit <| .ite ?crcUpdate <| .ite ?crcRead <| .ite ?vuEnc <| .ite ?vuDrst <| .ite ?vuDbyte <|
      .ite ?frameWrite <| .ite ?trWdone <| .ite ?frameRead <| .ite ?trRdone <| .ite ?trRerr <|
      .ite ?chRead <| .ite ?chWrite <| .ite ?tunnelEmit <| .ite ?reset <| .ite ?statRead <| .ite ?faultRead .err
    case crcInit | crcRead | vuDrst | frameRead | trRerr | reset | statRead | faultRead =>
      rintro _ _ ⟨⟩
      exact ⟨rfl, rfl⟩
    all_goals
      intro i rest h
      simp only [Parse.andThen_eq_ok, Parse.map_eq_ok, takeB8_eq_ok, takeU32_eq_ok, takeSeq_eq_ok, takeOut8_eq_ok] at h
    case crcUpdate | vuDbyte | vuEnc =>
      obtain ⟨v, rfl, rfl⟩ := h
      exact ⟨rfl, rfl⟩
    case frameWrite =>
      obtain ⟨rr, _, rfl, src, _, rfl, dst, _, rfl, payload, ⟨hl, rfl⟩, rfl⟩ := h
      exact ⟨decide_eq_true hl, by simp [encode]⟩
    case trWdone =>
      obtain ⟨outcome, ⟨ho, rfl⟩, rfl⟩ := h
      exact ⟨decide_eq_true ho, rfl⟩
    case trRdone =>
      obtain ⟨chunk, ⟨hl, rfl⟩, rfl⟩ := h
      exact ⟨decide_eq_true hl, rfl⟩
    case chRead | tunnelEmit =>
      obtain ⟨ch, _, rfl, cap, rfl, rfl⟩ := h
      exact ⟨rfl, rfl⟩
    case chWrite =>
      obtain ⟨ch, _, rfl, data, ⟨hl, rfl⟩, rfl⟩ := h
      exact ⟨decide_eq_true hl, by simp [encode]⟩

theorem decodeCommand_encode {i : Instr} (hp : i.place = .command) (hw : i.wf = true) (rest : List Byte) :
    decodeCommand (encode i ++ rest) = .ok i rest := by
  cases i with
  | crcInit | crcUpdate | crcRead | vuDrst | vuDbyte | frameRead | trRerr | reset | statRead | faultRead => rfl
  | vuEnc | chRead | tunnelEmit => simp [encode, decodeCommand]
  | frameWrite _ _ _ d | trRdone d | chWrite _ d =>
    have hd : fits32 d := of_decide_eq_true hw
    simp [encode, decodeCommand, takeSeq_seqBytes hd]
  | trWdone outcome =>
    have ho : outcome = .ok ∨ outcome = .errTransport := of_decide_eq_true hw
    obtain rfl | rfl := ho <;> rfl
  | _ => cases hp

/-! ### A trace (30_encoding.md R89) -/

theorem decodeTrace_readsEncoding (bytes : List Byte) : ReadsEncoding bytes (decodeTrace bytes) := by
  cases bytes with
  | nil => exact .err
  | cons op r =>
    refine .ite ?_ <| .ite ?_ <| decodeCommand_readsEncoding _
    all_goals
      rintro _ _ ⟨⟩
      exact ⟨rfl, rfl⟩

/-! ### The wire (30_encoding.md R70) -/

theorem wf_frame_iff {rr : Bool} {src : BitVec 7} {dst : Byte} {len payload : List Byte} {crc : Word16} :
    (Instr.frame rr src dst len payload crc).wf = true ↔
      fits32 payload ∧ VuSpells (BitVec.ofNat 32 payload.length) len :=
  decide_eq_true_iff

/-- A source/flag byte is put together from its flag and its source (30_encoding.md R71). -/
theorem flagByte_msb_setWidth (b : Byte) : flagByte b.msb (b.setWidth 7) = b := by
  rw [flagByte, BitVec.ofBool_append]
  exact BitVec.cons_msb_setWidth b

theorem msb_flagByte (rr : Bool) (src : BitVec 7) : (flagByte rr src).msb = rr := by
  rw [flagByte, BitVec.ofBool_append]
  exact BitVec.msb_cons

theorem setWidth_flagByte (rr : Bool) (src : BitVec 7) : (flagByte rr src).setWidth 7 = src := by
  rw [flagByte, BitVec.ofBool_append]
  exact BitVec.setWidth_cons

/-- The length bytes are those before what the length parser left. -/
theorem take_length_sub (x r : List Byte) : (x ++ r).take ((x ++ r).length - r.length) = x := by
  rw [List.length_append, Nat.add_sub_cancel_right, List.take_left]

theorem decodeFrame_readsEncoding (bytes : List Byte) : ReadsEncoding bytes (decodeFrame bytes) := by
  intro i rest h
  unfold decodeFrame at h
  split at h
  · next m0 m1 flag dst r =>
    split at h
    · next hm =>
      obtain ⟨rfl, rfl⟩ := hm
      simp only [Parse.andThen_eq_ok, Parse.map_eq_ok, vuParse_eq_ok, fix_eq_ok, takeB8_eq_ok] at h
      obtain ⟨n, _, ⟨len, rfl, hlen⟩, payload, _, ⟨rfl, hl⟩, lo, _, rfl, hi, rfl, rfl⟩ := h
      rw [take_length_sub]
      refine ⟨wf_frame_iff.mpr ⟨by rw [fits32, hl]; exact n.isLt, ?_⟩, ?_⟩
      · rw [hl, BitVec.ofNat_toNat, BitVec.setWidth_eq]
        exact hlen
      · simp [encode, encodeFrame, flagByte_msb_setWidth, le16_ofLe16]
    · cases h
  · cases h

theorem decodeFrame_encodeFrame {len payload : List Byte} (rr : Bool) (src : BitVec 7) (dst : Byte) (crc : Word16)
    (hlen : VuSpells (BitVec.ofNat 32 payload.length) len) (hp : fits32 payload) (rest : List Byte) :
    decodeFrame (encodeFrame rr src dst len payload crc ++ rest) = .ok (.frame rr src dst len payload crc) rest := by
  have happ : encodeFrame rr src dst len payload crc ++ rest =
      0x54 :: 0xAB :: flagByte rr src :: dst :: (len ++ (payload ++ (le16 crc ++ rest))) := by simp [encodeFrame]
  rw [happ, decodeFrame, if_pos ⟨rfl, rfl⟩, hlen.parse_append, Parse.andThen_ok, toNat_ofNat_length hp, fix_append,
    Parse.andThen_ok, take_length_sub, msb_flagByte, setWidth_flagByte]
  simp [le16, ofLe16_le16]

/-! ### A payload (30_encoding.md R76) -/

theorem decodeSubframe_encodeSubframe {sub : Subframe} (h : sub.wf = true) (rest : List Byte) :
    decodeSubframe (encodeSubframe sub ++ rest) = .ok (.ofSubframe sub) rest := by
  rw [decodeSubframe, (encodeSubframe_spells h).parse_append, Parse.map_ok]

/-! ### Decode and encode agree -/

/-- Settles O2: at the place of each instruction its decoder reads back what the encoder wrote. -/
theorem decodeOfEncodeIsTheInstruction : Obligations.DecodeOfEncodeIsTheInstruction := by
  intro i rest hw
  cases i with
  | rxFetch | rxByte => rfl
  | writeSingle t reg value => exact decodeSubframe_encodeSubframe (sub := .writeSingle t reg value) hw rest
  | writeMultiple t start n values =>
    exact decodeSubframe_encodeSubframe (sub := .writeMultiple t start n values) hw rest
  | readSingle t reg => exact decodeSubframe_encodeSubframe (sub := .readSingle t reg) hw rest
  | readMultiple t start n => exact decodeSubframe_encodeSubframe (sub := .readMultiple t start n) hw rest
  | replySingle t reg value => exact decodeSubframe_encodeSubframe (sub := .replySingle t reg value) hw rest
  | writeError reg code => exact decodeSubframe_encodeSubframe (sub := .writeError reg code) hw rest
  | tunnelC2s ch data => exact decodeSubframe_encodeSubframe (sub := .tunnelC2s ch data) hw rest
  | tunnelS2c ch data => exact decodeSubframe_encodeSubframe (sub := .tunnelS2c ch data) hw rest
  | frame rr src dst len payload crc =>
    obtain ⟨hp, hlen⟩ := wf_frame_iff.mp hw
    exact decodeFrame_encodeFrame rr src dst crc hlen hp rest
  | _ => exact decodeCommand_encode rfl hw rest

/-- Settles O3: each decoder but the payload's reads nothing but encodings. -/
theorem decodedBytesAreTheEncoding : Obligations.DecodedBytesAreTheEncoding := by
  intro p bytes i rest hp h
  cases p with
  | command => exact decodeCommand_readsEncoding bytes i rest h
  | trace => exact decodeTrace_readsEncoding bytes i rest h
  | payload => exact absurd rfl hp
  | wire => exact decodeFrame_readsEncoding bytes i rest h

end Sys2Proof.Machine
end

section
/-! The statements that follow from the encodings at once: the spec's own words, the serializer's layout (42_frame.md
R140), CRC.BLOCK (30_encoding.md R93), and the step that runs a decoded record (R88). -/

namespace Sys2Proof.Machine

/-- Settles O1: each word runs through the decoder of its place. -/
theorem specWordsDecode : Obligations.SpecWordsDecode :=
  ⟨rfl, rfl, rfl, rfl, rfl, rfl, rfl, rfl, rfl, rfl⟩

/-! ### The serializer -/

/-- The serializer's source/flag byte is that of the frame (30_encoding.md R71). -/
theorem shiftLeft_or_eq_flagByte {rr : Byte} {src : Word32} (hrr : rr.toNat ≤ 1) (hsrc : src.toNat ≤ 127) :
    (rr <<< 7) ||| src.setWidth 8 = flagByte (decide (rr = 1)) (src.setWidth 7) := by
  have hflag : (flagByte (decide (rr = 1)) (src.setWidth 7)).toNat =
      (decide (rr = 1)).toNat <<< 7 ||| src.toNat % 2 ^ 7 := by
    rw [flagByte, BitVec.toNat_append, BitVec.toNat_ofBool, BitVec.toNat_setWidth]
  apply BitVec.eq_of_toNat_eq
  rw [hflag, BitVec.toNat_or, BitVec.toNat_shiftLeft, BitVec.toNat_setWidth,
    Nat.mod_eq_of_lt (a := src.toNat) (by omega), Nat.mod_eq_of_lt (a := src.toNat) (by omega)]
  obtain rfl | rfl : rr = 0 ∨ rr = 1 := by
    rw [← BitVec.toNat_inj, ← BitVec.toNat_inj]
    simp only [BitVec.ofNat_eq_ofNat, BitVec.reduceToNat]
    omega
  · rfl
  · rfl

/-- An accepted write's bytes up to the CRC field are a frame's, its length minimal (42_frame.md R140). -/
theorem frameBody_eq {rr : Byte} {src : Word32} (dst : Word32) (p : List Byte) (hrr : rr.toNat ≤ 1)
    (hsrc : src.toNat ≤ 127) :
    frameBody rr src dst p =
      [0x54, 0xAB, flagByte (decide (rr = 1)) (src.setWidth 7), dst.setWidth 8] ++
        vuEnc (BitVec.ofNat 32 p.length) ++ p := by
  rw [frameBody, shiftLeft_or_eq_flagByte hrr hsrc]

theorem frameBytes_eq_encodeFrame {rr : Byte} {src : Word32} (dst : Word32) (p : List Byte) (hrr : rr.toNat ≤ 1)
    (hsrc : src.toNat ≤ 127) :
    frameBytes rr src dst p =
      encodeFrame (decide (rr = 1)) (src.setWidth 7) (dst.setWidth 8) (vuEnc (BitVec.ofNat 32 p.length)) p
        (crc16 (frameBody rr src dst p)) := by
  rw [frameBytes, encodeFrame, ← frameBody_eq dst p hrr hsrc]

theorem frameBody_length (rr : Byte) (src dst : Word32) {p : List Byte} (hp : fits32 p) :
    (frameBody rr src dst p).length = 4 + vuLen p.length + p.length := by
  simp only [frameBody, List.length_append, List.length_cons, List.length_nil, vuEnc_length, toNat_ofNat_length hp]

/-- Settles O17: the serializer's bytes are a frame's encoding, which the decoder reads back. -/
theorem frameBytesLayout : Obligations.FrameBytesLayout := by
  intro rr src dst p rest hrr hsrc _ hp
  have hlen := frameBody_length rr src dst hp
  have htake : (frameBytes rr src dst p).take (4 + vuLen p.length + p.length) = frameBody rr src dst p := by
    rw [frameBytes, ← hlen, List.take_left]
  constructor
  · rw [htake, frameBytes_eq_encodeFrame dst p hrr hsrc]
    exact decodeFrame_encodeFrame _ _ _ _ (vuEnc_spells _) hp rest
  · rw [frameBytes, List.length_append, hlen, le16]
    simp only [List.length_cons, List.length_nil]
    omega

/-! ### CRC.BLOCK -/

/-- CRC.UPDATE after CRC.UPDATE folds the bytes into the register (40_crc.md R103). -/
theorem execList_crcUpdate (bs : List Byte) (s : State) :
    execList (bs.map .crcUpdate) s = .next { s with crcReg := bs.foldl crcStep s.crcReg } := by
  induction bs generalizing s with
  | nil => rfl
  | cons b bs ih => exact ih { s with crcReg := crcStep s.crcReg b }

/-- Settles O14: CRC.INIT starts the fold that the updates go on with. -/
theorem crcBlockComputesCrc16 : Obligations.CrcBlockComputesCrc16 :=
  fun bs s => execList_crcUpdate bs { s with crcReg := crcInit }

/-! ### The step that runs a record -/

/-- There is no record in no bytes. -/
theorem port_ne_nil_of_decodeCommand {s : State} {i : Instr} {rest : List Byte}
    (h : decodeCommand s.port = .ok i rest) : s.port ≠ [] := by
  intro hp
  rw [hp] at h
  cases h

theorem presentRecord_of_decodeCommand {s : State} {i : Instr} {rest : List Byte}
    (h : decodeCommand s.port = .ok i rest) : presentRecord s = .run i { s with port := rest } := by
  simp [presentRecord, h]

theorem envTurn_of_decodeCommand {s : State} {i : Instr} {rest : List Byte}
    (h : decodeCommand s.port = .ok i rest) : envTurn s = .run i { s with port := rest } := by
  rw [envTurn, if_neg (port_ne_nil_of_decodeCommand h), presentRecord_of_decodeCommand h]

theorem blockTurn_of_decodeCommand {s : State} {i : Instr} {rest : List Byte} (hi : internalStep s = none)
    (h : decodeCommand s.port = .ok i rest) : blockTurn s = .run i { s with port := rest } := by
  rw [blockTurn_of_none hi, if_neg (port_ne_nil_of_decodeCommand h), presentRecord_of_decodeCommand h]

/-- Settles O54: each kind of turn ends in the presented record, which is what the port's bytes decode to. -/
theorem stepRunsTheDecodedRecord : Obligations.StepRunsTheDecodedRecord := by
  refine fun i rest s h => ⟨fun sched hs => ?_, fun sched hs hi => ?_, fun hs hi => ?_⟩
  · exact step_of_run ((nextMove_of_env hs).trans (envTurn_of_decodeCommand h))
  · exact step_of_run ((nextMove_of_block hs).trans
      (blockTurn_of_decodeCommand ((internalStep_sched s sched).trans hi) h))
  · exact step_of_run ((nextMove_of_nil hs).trans (blockTurn_of_decodeCommand hi h))

end Sys2Proof.Machine
end

section
/-! What an armed receiver does with the bytes of a frame (42_frame.md R150), field by field, up to the last byte; what
a wrong checksum does then, and what a right one proves of the bytes taken (30_encoding.md R70, R74). -/

namespace Sys2Proof.Machine

/-! ### Taking bytes -/

theorem rxByteN_one {s : State} {b : Byte} {rest : List Byte} (ha : s.rxArmed = true) (hf : s.inFifo = b :: rest) :
    rxByteN 1 s = rxTake b { s with inFifo := rest } := by
  simp [rxByteN, rxByteEnabled, rxByteStep, ha, hf]

/-- From `s`, RX.BYTE on each of `bytes` leads to `t`, whatever waits behind them in `in_fifo` (42_frame.md R150). -/
def Takes (bytes : List Byte) (s t : State) : Prop :=
  ∀ r : List Byte, rxByteN bytes.length { s with inFifo := bytes ++ r } = { t with inFifo := r }

namespace Takes

theorem nil (s : State) : Takes [] s s := fun _ => rfl

theorem cons {b : Byte} {bytes : List Byte} {s t u : State} (ha : s.rxArmed = true)
    (h : ∀ r, rxTake b { s with inFifo := r } = { t with inFifo := r }) (k : Takes bytes t u) :
    Takes (b :: bytes) s u := by
  intro r
  have hen : rxByteEnabled { s with inFifo := b :: (bytes ++ r) } = true := by simp [rxByteEnabled, ha]
  exact (if_pos hen).trans ((congrArg (rxByteN bytes.length) (h (bytes ++ r))).trans (k r))

theorem one {b : Byte} {s t : State} (ha : s.rxArmed = true)
    (h : ∀ r, rxTake b { s with inFifo := r } = { t with inFifo := r }) : Takes [b] s t :=
  .cons ha h (.nil t)

theorem append {x y : List Byte} {s t u : State} (h : Takes x s t) (k : Takes y t u) : Takes (x ++ y) s u := by
  intro r
  rw [List.length_append, rxByteN_add, List.append_assoc, h, k]

end Takes

/-! ### The fields of a frame -/

theorem takes_magic0 {s : State} (ha : s.rxArmed = true) (hst : s.rxState = .hunt0) : Takes [0x54] s (rxStart s) :=
  .one ha fun r => rxTake_hunt0 0x54 { s with inFifo := r } hst

theorem takes_magic1 {s : State} (ha : s.rxArmed = true) (hst : s.rxState = .hunt1) :
    Takes [0xAB] s { rxAcc 0xAB s with rxState := .src } :=
  .one ha fun r => rxTake_hunt1 0xAB { s with inFifo := r } hst

theorem takes_src {s : State} (flag : Byte) (ha : s.rxArmed = true) (hst : s.rxState = .src) :
    Takes [flag] s (rxTakeSrc flag s) :=
  .one ha fun r => rxTake_src flag { s with inFifo := r } hst

theorem takes_dst {s : State} (dst : Byte) (ha : s.rxArmed = true) (hst : s.rxState = .dst) :
    Takes [dst] s (rxTakeDst dst s) :=
  .one ha fun r => rxTake_dst dst { s with inFifo := r } hst

/-- The head: magic, source/flag byte and `dest_id` (30_encoding.md R70). -/
theorem takes_head {s : State} (flag dst : Byte) (ha : s.rxArmed = true) (hst : s.rxState = .hunt0) :
    Takes [0x54, 0xAB, flag, dst] s
      { s with
        rxState := .len, rxSrc := flag, rxDst := dst, rxVacc := 0, rxVn := 0
        rxRaw := [0x54, 0xAB, flag, dst], rxCrc := crc16 [0x54, 0xAB, flag, dst] } := by
  have hmagic := (takes_magic0 ha hst).append (takes_magic1 ha rfl)
  have hall := (hmagic.append (takes_src flag ha rfl)).append (takes_dst dst ha rfl)
  simpa [rxTakeDst, rxTakeSrc, rxStart, rxAcc, crc16] using hall

/-- The length field, in any form, of a payload that fits (41_varuint.md R127, 42_frame.md R150). -/
theorem takes_len {s : State} {len : List Byte} {v : Word32} (ha : s.rxArmed = true) (hst : s.rxState = .len)
    (hlen : vuParseFrom s.rxVacc s.rxVn len = .ok v []) (hv : v.toNat ≤ s.cfg.maxPayload) :
    Takes len s
      { s with
        rxState := if v = 0 then .crc0 else .payload, rxLen := v, rxPay := [], rxVacc := 0, rxVn := 0
        rxRaw := s.rxRaw ++ len, rxCrc := len.foldl crcStep s.rxCrc } := by
  induction len generalizing s with
  | nil => cases hlen
  | cons b len ih =>
    rw [vuParseFrom] at hlen
    have htake (r : List Byte) : rxTake b { s with inFifo := r } = rxTakeLen b { s with inFifo := r } :=
      rxTake_len b _ hst
    unfold rxTakeLen at htake
    dsimp only at htake
    obtain ⟨-, -, a, hs⟩ | ⟨w, hs⟩ | ⟨-, hs⟩ := vuStep_cases s.rxVacc s.rxVn b <;> rw [hs] at hlen htake
    · refine .cons (t := { rxAcc b s with rxVacc := a, rxVn := s.rxVn + 1 }) ha htake ?_
      have hrest := ih (s := { rxAcc b s with rxVacc := a, rxVn := s.rxVn + 1 }) ha hst hlen hv
      simpa [rxAcc] using hrest
    · obtain ⟨rfl, rfl⟩ : w = v ∧ len = [] := by simpa using hlen
      refine .cons ha (fun r => (htake r).trans ?_) (.nil _)
      simp [rxGotLen, Nat.not_lt.mpr hv, rxAcc]
    · cases hlen

/-- The payload's bytes, if there are any (42_frame.md R150). -/
theorem takes_payload {s : State} {p : List Byte} (ha : s.rxArmed = true)
    (hst : s.rxState = if p = [] then .crc0 else .payload) (hl : s.rxPay.length + p.length = s.rxLen.toNat) :
    Takes p s
      { s with
        rxState := .crc0, rxPay := s.rxPay ++ p, rxRaw := s.rxRaw ++ p, rxCrc := p.foldl crcStep s.rxCrc } := by
  induction p generalizing s with
  | nil => simpa [← (show s.rxState = .crc0 from hst)] using Takes.nil s
  | cons b p ih =>
    rw [List.length_cons] at hl
    have hnext : (rxTakePay b s).rxState = if p = [] then .crc0 else .payload := by
      have hlast : s.rxPay.length + 1 = s.rxLen.toNat ↔ p = [] := by
        rw [← List.length_eq_zero_iff]
        omega
      simp [rxTakePay, hlast]
    refine .cons (t := rxTakePay b s) ha (fun r => rxTake_payload b _ hst) ?_
    have hrest := ih (s := rxTakePay b s) ha hnext (by simp [rxTakePay]; omega)
    simpa [rxTakePay, rxAcc] using hrest

/-- The low byte of the CRC field, which is not folded in (42_frame.md R150). -/
theorem takes_crcLow {s : State} (lo : Byte) (ha : s.rxArmed = true) (hst : s.rxState = .crc0) :
    Takes [lo] s { s with rxRaw := s.rxRaw ++ [lo], rxCrcLo := lo, rxState := .crc1 } :=
  .one ha fun r => rxTake_crc0 lo { s with inFifo := r } hst

/-! ### A frame -/

/-- An armed receiver that has taken all of a frame but its last byte: it holds the frame's fields, and the checksum of
the bytes before the CRC field (10_state.md R23, R29). -/
def holdingFrame (flag dst : Byte) (len p : List Byte) (lo : Byte) (s : State) : State :=
  { s with
    rxState := .crc1, rxSrc := flag, rxDst := dst, rxVacc := 0, rxVn := 0
    rxLen := BitVec.ofNat 32 p.length, rxPay := p, rxCrcLo := lo, rxRaw := [0x54, 0xAB, flag, dst] ++ len ++ p ++ [lo]
    rxCrc := crc16 ([0x54, 0xAB, flag, dst] ++ len ++ p) }

theorem takes_upto_last {s : State} {len p : List Byte} (flag dst lo : Byte) (ha : s.rxArmed = true)
    (hst : s.rxState = .hunt0) (hlen : VuSpells (BitVec.ofNat 32 p.length) len) (hp32 : fits32 p)
    (hp : p.length ≤ s.cfg.maxPayload) :
    Takes ([0x54, 0xAB, flag, dst] ++ len ++ p ++ [lo]) s (holdingFrame flag dst len p lo s) := by
  have hn : (BitVec.ofNat 32 p.length).toNat = p.length := toNat_ofNat_length hp32
  have h0 : BitVec.ofNat 32 p.length = 0 ↔ p = [] := by
    rw [BitVec.toNat_eq, hn, ← List.length_eq_zero_iff]
    rfl
  have hhead := takes_head flag dst ha hst
  have hfield := hhead.append (takes_len ha rfl hlen (by rwa [hn]))
  have hpay := hfield.append (takes_payload (p := p) ha (by simp only [h0]) (by simp [hn]))
  have hlow := hpay.append (takes_crcLow lo ha rfl)
  simpa [holdingFrame, crc16] using hlow

/-- A frame taken byte by byte: all but its last byte, and then that one (42_frame.md R150). -/
theorem exec_frame {s : State} {len p : List Byte} {rr : Bool} {src : BitVec 7} {dst : Byte} {crc : Word16}
    (ha : s.rxArmed = true) (hst : s.rxState = .hunt0) (hwf : (Instr.frame rr src dst len p crc).wf = true)
    (hp : p.length ≤ s.cfg.maxPayload) :
    exec (.frame rr src dst len p crc) s =
      .next (rxTakeCrc1 (crc.extractLsb' 8 8)
        (holdingFrame (flagByte rr src) dst len p (crc.extractLsb' 0 8) s)) := by
  obtain ⟨hp32, hlen⟩ := wf_frame_iff.mp hwf
  have hupto := takes_upto_last (flagByte rr src) dst (crc.extractLsb' 0 8) ha hst hlen hp32 hp
  have hbytes : encodeFrame rr src dst len p crc ++ s.inFifo =
      ([0x54, 0xAB, flagByte rr src, dst] ++ len ++ p ++ [crc.extractLsb' 0 8]) ++
        (crc.extractLsb' 8 8 :: s.inFifo) := by
    simp [encodeFrame, le16]
  have hlength : (encodeFrame rr src dst len p crc).length =
      ([0x54, 0xAB, flagByte rr src, dst] ++ len ++ p ++ [crc.extractLsb' 0 8]).length + 1 := by
    simp only [encodeFrame, le16, List.length_append, List.length_cons, List.length_nil]
  have hrun : rxByteN (encodeFrame rr src dst len p crc).length
      { s with inFifo := encodeFrame rr src dst len p crc ++ s.inFifo } = rxTakeCrc1 (crc.extractLsb' 8 8)
        (holdingFrame (flagByte rr src) dst len p (crc.extractLsb' 0 8) s) := by
    rw [hlength, hbytes, rxByteN_add, hupto]
    refine Eq.trans (rxByteN_one ha rfl) ?_
    exact rxTake_crc1 _ (holdingFrame (flagByte rr src) dst len p (crc.extractLsb' 0 8) s) rfl
  exact congrArg _ hrun

/-- Settles O25: at the last byte the checksum that the receiver has folded is not the field's, so it hunts again. -/
theorem frameWithWrongCrcIsDropped : Obligations.FrameWithWrongCrcIsDropped := by
  intro rr src dst len p crc s ha hst hwf hp hcrc
  have hlow : crc.extractLsb' 0 8 = crc.setWidth 8 := (BitVec.setWidth_eq_extractLsb' (by decide)).symm
  rw [exec_frame ha hst hwf hp, rxTakeCrc1, if_neg (by rw [holdingFrame, ofLe16_le16]; exact hcrc)]
  simp [rxResync, holdingFrame, hst, hlow]

/-! ### A delivered frame -/

/-- At the checksum's last byte the bytes taken are a frame but for that byte (10_state.md R29). -/
theorem RawOk.of_crc1 {s : State} (h : RawOk s) (hst : s.rxState = .crc1) :
    ∃ len, s.rxRaw = rxHead s ++ len ++ s.rxPay ++ [s.rxCrcLo] ∧ VuSpells s.rxLen len ∧
      s.rxCrc = crc16 (rxHead s ++ len ++ s.rxPay) := by
  simpa only [RawOk, hst] using h

/-- With a checksum byte that is right, they are a frame with the right CRC field (30_encoding.md R74). -/
theorem RawOk.encodeFrame_of_completes {s : State} {b : Byte} (h : RawOk s) (hc : Completes b s) :
    ∃ len, VuSpells s.rxLen len ∧ s.rxRaw ++ [b] =
      encodeFrame s.rxSrc.msb (s.rxSrc.setWidth 7) s.rxDst len s.rxPay (crc16 (rxHead s ++ len ++ s.rxPay)) := by
  obtain ⟨hst, hcrc⟩ := hc
  obtain ⟨len, hraw, hlen, hsum⟩ := h.of_crc1 hst
  refine ⟨len, hlen, ?_⟩
  rw [encodeFrame, flagByte_msb_setWidth, ← hsum, ← hcrc, le16_ofLe16, hraw, rxHead]
  simp

/-- A delivery emits the demultiplexer's events, and then the completion with the frame's fields (42_frame.md R148). -/
theorem rxDeliver_out (s : State) :
    ∃ es, (rxDeliver s).out = s.out ++ es ++
      [.frameRdDone .ok (some
        { rr := s.rxSrc.msb, src := s.rxSrc.setWidth 7, dst := s.rxDst, payload := s.rxPay
          forUs := isForUs s.cfg s.rxDst })] := by
  obtain ⟨es, hes⟩ := (demuxFrame_extends s.rxDst s.rxPay s.rxRaw (rxResync { s with rxArmed := false })).out_eq
  exact ⟨es, by rw [rxDeliver, emit_out, hes]; rfl⟩

/-- An RX.BYTE after which the receiver is not armed has completed a frame and delivered it (42_frame.md R148). -/
theorem completes_of_rxByte_disarms {s t : State} (h : exec .rxByte s = .next t) (hdis : t.rxArmed = false) :
    ∃ b rest, s.inFifo = b :: rest ∧ Completes b s ∧
      t = rxDeliver { s with inFifo := rest, rxRaw := s.rxRaw ++ [b] } := by
  obtain ⟨ha, b, rest, hf, rfl⟩ := exec_rxByte_eq_next h
  obtain ⟨u, hu, he⟩ | ⟨hc, hdel⟩ := rxTake_cases b { s with inFifo := rest }
  · rw [he.outsideReceiver, hu] at hdis
    exact absurd (ha.symm.trans hdis) (by decide)
  · exact ⟨b, rest, hf, hc, hdel⟩

/-- Settles O28: an RX.BYTE that disarms the receiver has delivered, and what the receiver held then is a frame. -/
theorem deliveredFrameWasOnTheWire : Obligations.DeliveredFrameWasOnTheWire := by
  intro s t hraw h hdis
  obtain ⟨b, rest, hf, hc, rfl⟩ := completes_of_rxByte_disarms h hdis
  obtain ⟨len, hlen, hframe⟩ := hraw.encodeFrame_of_completes hc
  obtain ⟨es, hes⟩ := rxDeliver_out { s with inFifo := rest, rxRaw := s.rxRaw ++ [b] }
  refine ⟨b, rest, s.rxSrc.msb, s.rxSrc.setWidth 7, s.rxDst, len, s.rxPay, es, hf, hlen, rfl, ?_, fun hok => ?_, hes⟩
  · rw [flagByte_msb_setWidth]
    exact hframe
  · obtain ⟨hl, -, -⟩ : s.rxPay.length = s.rxLen.toNat ∧ s.rxLen.toNat ≤ s.cfg.maxPayload ∧
        s.rxRaw.length ≤ 10 + s.rxPay.length := by simpa only [RxOk, hc.1] using hok
    have hval : BitVec.ofNat 32 s.rxPay.length = s.rxLen := by rw [hl, BitVec.ofNat_toNat, BitVec.setWidth_eq]
    exact ⟨hl, wf_frame_iff.mpr ⟨by rw [fits32, hl]; exact s.rxLen.isLt, by rw [hval]; exact hlen⟩⟩

end Sys2Proof.Machine
end

section
/-! The checksum (40_crc.md R100, R101): folding a byte in loses nothing of the register or of the byte, so that a
change of one byte is never lost (R106); and the stand-alone CRC generator (R102 to R104). -/

namespace Sys2Proof.Machine

/-! ### One byte changed -/

/-- `CRC_POLY` is odd, so the bit that a round shifts out comes back as the lowest bit (40_crc.md R100). -/
theorem crcShift_getLsbD_zero (c : Word16) : (crcShift c).getLsbD 0 = c.msb := by
  unfold crcShift
  split
  · next h => simp [crcPoly, h]
  · next h => simp [h]

theorem eq_of_msb_of_shiftLeft_one {c d : Word16} (hmsb : c.msb = d.msb) (h : c <<< 1 = d <<< 1) : c = d := by
  rw [BitVec.msb_eq_decide, BitVec.msb_eq_decide, decide_eq_decide] at hmsb
  bv_omega

/-- Rounds of equal results had equal top bits, hence took the same branch, and either branch can be undone. -/
theorem crcShift_injective : Function.Injective crcShift := by
  intro c d h
  have hmsb : c.msb = d.msb := by rw [← crcShift_getLsbD_zero, h, crcShift_getLsbD_zero]
  refine eq_of_msb_of_shiftLeft_one hmsb ?_
  unfold crcShift at h
  rw [hmsb] at h
  split at h
  · exact (BitVec.xor_left_inj _).mp h
  · exact h

theorem crcStep_eq_iterate (c : Word16) (b : Byte) : crcStep c b = crcShift^[8] (c ^^^ (b.setWidth 16 <<< 8)) := rfl

theorem crcStep_injective_left (b : Byte) : Function.Injective (crcStep · b) := by
  intro c d h
  simp only [crcStep_eq_iterate] at h
  exact (BitVec.xor_left_inj _).mp (crcShift_injective.iterate 8 h)

theorem crcStep_injective_right (c : Word16) : Function.Injective (crcStep c) := by
  intro b b' h
  rw [crcStep_eq_iterate, crcStep_eq_iterate] at h
  have hshift : b.setWidth 16 <<< 8 = b'.setWidth 16 <<< 8 :=
    (BitVec.xor_right_inj _).mp (crcShift_injective.iterate 8 h)
  bv_omega

theorem foldl_crcStep_injective (s : List Byte) : Function.Injective (s.foldl crcStep) := by
  induction s with
  | nil => exact Function.injective_id
  | cons b s ih => exact ih.comp (crcStep_injective_left b)

/-- Settles O15: the changed byte gives another register, and the bytes after it keep two registers apart. -/
theorem oneByteErrorChangesTheCrc : Obligations.OneByteErrorChangesTheCrc := by
  intro pre suf b b' hb h
  simp only [crc16, List.foldl_append, List.foldl_cons, List.foldl_nil] at h
  exact hb (crcStep_injective_right _ (foldl_crcStep_injective suf h))

set_option maxRecDepth 20000 in
/-- Settles O13: the fold's own equations, and the check value. -/
theorem crc16FoldsFromTheFirstByte : Obligations.Crc16FoldsFromTheFirstByte :=
  ⟨rfl, crc16_append, by decide⟩

/-! ### The CRC generator -/

/-- Operations run after others that have a step go on from its state. -/
theorem execList_append_of_next {x : List Instr} {s t : State} (h : execList x s = .next t) (y : List Instr) :
    execList (x ++ y) s = execList y t := by
  induction x generalizing s with
  | nil => cases h; rfl
  | cons i x ih =>
    rw [execList] at h
    rw [List.cons_append, execList]
    split at h
    · next u hu => rw [ih h]
    · cases h
    · cases h

set_option maxRecDepth 20000 in
/-- Vector K7 of 95_test_vectors.md, on which the example of 40_crc.md R104 rests. -/
theorem crc16_emptyFrameBody : crc16 [0x54, 0xAB, 0x01, 0x02, 0x00] = 0x2803 := by decide

/-- Settles O12: each operation by its definition, and the blocks by what CRC.BLOCK leaves in the register. -/
theorem crcUnitOperations : Obligations.CrcUnitOperations := by
  refine ⟨fun _ => rfl, fun _ _ => rfl, fun _ => rfl, fun _ => rfl, fun _ _ => rfl, fun _ => rfl, fun _ => rfl,
    by decide, by decide, by decide, fun s => ?_, fun rr src dst p s => ?_⟩
  · rw [execList_append_of_next (crcBlockComputesCrc16 _ s), crc16_emptyFrameBody]
    exact ⟨_, rfl, rfl⟩
  · exact ⟨_, crcBlockComputesCrc16 _ s, rfl⟩

/-! ### A frame with one byte changed -/

theorem le16_injective : Function.Injective le16 := by
  intro v w h
  obtain ⟨hlo, hhi⟩ : v.extractLsb' 0 8 = w.extractLsb' 0 8 ∧ v.extractLsb' 8 8 = w.extractLsb' 8 8 := by
    simpa [le16] using h
  rw [← ofLe16_le16 v, hlo, hhi, ofLe16_le16]

/-- Cut two byte sequences that differ in one byte at the same place: that byte is before the cut, or it is not. -/
theorem cut_of_one_byte_changed {x y u v pre suf : List Byte} {b b' : Byte} (hlen : x.length = y.length)
    (hx : x ++ u = pre ++ [b] ++ suf) (hy : y ++ v = pre ++ [b'] ++ suf) :
    (∃ mid, x = pre ++ [b] ++ mid ∧ y = pre ++ [b'] ++ mid ∧ u = v) ∨
      x = y ∧ ∃ mid, u = mid ++ [b] ++ suf ∧ v = mid ++ [b'] ++ suf := by
  simp only [List.append_assoc, List.singleton_append] at hx hy ⊢
  obtain ⟨mid, rfl, rfl⟩ | ⟨cs, rfl, hcs⟩ := List.append_eq_append_iff.mp hx
  · obtain ⟨rfl, rfl⟩ := List.append_inj (hy.trans (List.append_assoc ..)) hlen.symm
    exact .inr ⟨rfl, mid, rfl, rfl⟩
  · obtain ⟨rfl, rfl⟩ | ⟨mid, rfl, rfl⟩ := List.cons_eq_append_iff.mp hcs
    · obtain ⟨rfl, rfl⟩ := List.append_inj hy (by simpa using hlen.symm)
      exact .inr ⟨List.append_nil _, [], rfl, rfl⟩
    · obtain ⟨rfl, rfl⟩ := List.append_inj (hy.trans (List.append_assoc pre (b' :: mid) u).symm)
        (by simpa using hlen.symm)
      exact .inl ⟨mid, rfl, rfl, rfl⟩

/-- After one byte of the covered span and its checksum field is changed, the field is not the span's checksum: a change
in the span changes its checksum and leaves the field, a change in the field leaves the span (40_crc.md R106). -/
theorem ne_crc16_of_one_byte_changed {x y pre suf : List Byte} {b b' : Byte} {crc' : Word16} (hb : b ≠ b')
    (hlen : x.length = y.length) (hx : x ++ le16 (crc16 x) = pre ++ [b] ++ suf)
    (hy : y ++ le16 crc' = pre ++ [b'] ++ suf) : crc' ≠ crc16 y := by
  rintro rfl
  obtain ⟨mid, rfl, rfl, hcrc⟩ | ⟨rfl, mid, hu, hv⟩ := cut_of_one_byte_changed hlen hx hy
  · exact oneByteErrorChangesTheCrc pre mid b b' hb (le16_injective hcrc)
  · exact hb (by simpa [hu] using hv)

/-- Settles O26: the frame still has the length its length field spells, so it is one with a wrong CRC field, which is
dropped. -/
theorem frameWithOneByteErrorIsRejected : Obligations.FrameWithOneByteErrorIsRejected := by
  rintro rr rr' src src' dst dst' len p p' crc crc' s pre suf b b' ha hst hwf hp hpl rfl hx hy hb
  obtain ⟨hp32, hlen⟩ := wf_frame_iff.mp hwf
  have hwf' : (Instr.frame rr' src' dst' len p' crc').wf = true :=
    wf_frame_iff.mpr ⟨by rwa [fits32, hpl], by rwa [hpl]⟩
  have hcrc : crc' ≠ crc16 ([0x54, 0xAB, flagByte rr' src', dst'] ++ len ++ p') :=
    ne_crc16_of_one_byte_changed hb (by simp [hpl]) hx hy
  exact ⟨_, frameWithWrongCrcIsDropped rr' src' dst' len p' crc' s ha hst hwf' (by rwa [hpl]) hcrc,
    ha, hst, rfl, rfl, rfl, rfl, rfl⟩

end Sys2Proof.Machine
end

section
/-! The varuint codec (41_varuint.md): `vu_enc` writes the one minimal encoding (R120, R121), `vu_parse` stops at the
fifth byte or where the bytes end (R122, R123, R128), and what the stand-alone unit does with either (R124 to R126). -/

namespace Sys2Proof.Machine

/-! ### The minimal encoding -/

theorem groupsValue_lt (x : List Byte) : groupsValue x < 128 ^ x.length := by
  induction x with
  | nil => exact Nat.one_pos
  | cons b x ih =>
    rw [groupsValue, List.length_cons, pow_succ]
    omega

/-- `vu_enc` writes no more bytes than any groups that hold the value. -/
theorem vuEncFrom_length_le (n : Nat) {k : Nat} {v : Word32} (h : v.toNat < 128 ^ (k + 1)) :
    (vuEncFrom n v).length ≤ k + 1 := by
  induction k generalizing n v with
  | zero =>
    cases n with
    | zero => simp [vuEncFrom]
    | succ n => rw [vuEncFrom_length_succ, if_pos (by omega)]
  | succ k ih =>
    cases n with
    | zero => simp [vuEncFrom]
    | succ n =>
      have hrest := ih n (v := v >>> 7) (by rw [toNat_shiftRight_7]; rw [pow_succ] at h; omega)
      rw [vuEncFrom_length_succ]
      split <;> omega

/-- Of one length, a value has one spelling: bit 7 of each byte is set by the length, and bits 6 to 0 by the value
(30_encoding.md R87). -/
theorem Continued.eq_of_groupsValue_eq {x y : List Byte} (hx : Continued x) (hy : Continued y)
    (hl : x.length = y.length) (hv : groupsValue x = groupsValue y) : x = y := by
  induction x generalizing y with
  | nil => exact hx.elim
  | cons b x ih =>
    cases y with
    | nil => exact hy.elim
    | cons c y =>
      simp only [groupsValue] at hv
      have hbit : 128 ≤ b.toNat ↔ 128 ≤ c.toNat := by
        rw [hx.le_iff (i := 0) rfl, hy.le_iff (i := 0) rfl, hl]
      obtain rfl : b = c := BitVec.eq_of_toNat_eq (by omega)
      have hrest : groupsValue x = groupsValue y := by omega
      have hlen : x.length = y.length := by simpa using hl
      by_cases hb : 128 ≤ b.toNat
      · rw [ih ((continued_cons_of_le hb).mp hx) ((continued_cons_of_le hb).mp hy) hlen hrest]
      · rw [(continued_cons_of_lt (by omega)).mp hx, (continued_cons_of_lt (by omega)).mp hy]

/-- Settles O4: what `vu_enc` writes is an encoding; another has groups enough to hold the value, and of one length there
is one. -/
theorem varuintRoundTripIsMinimal : Obligations.VaruintRoundTripIsMinimal := by
  refine ⟨fun v rest => (vuEnc_spells v).parse_append rest, fun v s hs => ?_⟩
  obtain ⟨hc, -, hv⟩ := vuSpells_iff.mp hs
  obtain ⟨hce, -, hve⟩ := vuSpells_iff.mp (vuEnc_spells v)
  obtain ⟨k, hk⟩ : ∃ k, s.length = k + 1 := ⟨s.length - 1, by have := hc.length_pos; omega⟩
  refine ⟨?_, fun hl => hc.eq_of_groupsValue_eq hce hl (hv.symm.trans hve)⟩
  rw [hk]
  exact vuEncFrom_length_le 5 (by rw [hv, ← hk]; exact groupsValue_lt s)

/-- Settles O5: the length of what `vu_enc` writes, and the definition of `vu_len`. -/
theorem varuintLengthThresholds : Obligations.VaruintLengthThresholds :=
  fun v => ⟨vuEnc_length v, rfl⟩

/-! ### The fifth byte, and too few bytes -/

/-- A byte with bit 7 set, before the fifth, asks for another (41_varuint.md R122). -/
theorem vuStep_of_msb (acc : Word32) {n : Fin 5} {b : Byte} (hn : n ≠ 4) (hb : b.msb = true) :
    ∃ a, vuStep acc n b = (a, n + 1, .more) := by
  simp [vuStep, hn, hb]

/-- The fifth byte is the last, or an error (41_varuint.md R122). -/
theorem vuStep_fifth (acc : Word32) (b : Byte) :
    (b.toNat < 16 ∧ ∃ v, vuStep acc 4 b = (0, 0, .done v)) ∨ (16 ≤ b.toNat ∧ vuStep acc 4 b = (0, 0, .err)) := by
  have hb : b >>> 4 = 0 ↔ b.toNat < 16 := shiftRight_eq_zero_iff
  rw [vuStep, if_pos rfl]
  by_cases h : b.toNat < 16
  · exact .inl ⟨h, _, if_neg (not_not.mpr (hb.mpr h))⟩
  · exact .inr ⟨Nat.not_lt.mp h, if_pos (mt hb.mp h)⟩

/-- While bit 7 is set and the fifth byte is not reached, `vu_parse` goes on, with each byte counted. -/
theorem vuParseFrom_of_msb {x : List Byte} (acc : Word32) {n m : Fin 5} (hx : ∀ b ∈ x, b.msb = true)
    (hm : m.val = n.val + x.length) : ∃ a, ∀ rest, vuParseFrom acc n (x ++ rest) = vuParseFrom a m rest := by
  induction x generalizing acc n with
  | nil =>
    obtain rfl : m = n := Fin.ext hm
    exact ⟨acc, fun _ => rfl⟩
  | cons b x ih =>
    rw [List.length_cons] at hm
    have hn : n ≠ 4 := by omega
    obtain ⟨hb, hx⟩ := List.forall_mem_cons.mp hx
    obtain ⟨a, ha⟩ := vuStep_of_msb acc hn hb
    obtain ⟨a', hrest⟩ := ih a hx (n := n + 1) (by rw [val_add_one_of_ne_four hn]; omega)
    exact ⟨a', fun rest => by rw [List.cons_append, vuParseFrom, ha]; exact hrest rest⟩

/-- Settles O7: four bytes with bit 7 set bring `vu_parse` to the fifth, and up to four do not end a value. -/
theorem varuintFifthByteAndTruncation : Obligations.VaruintFifthByteAndTruncation := by
  refine ⟨fun a b c d e rest ha hb hc hd => ?_, fun s hl hs => ?_⟩
  · obtain ⟨acc, hfour⟩ := vuParseFrom_of_msb (x := [a, b, c, d]) (n := 0) (m := 4) 0
      (by simp [ha, hb, hc, hd]) rfl
    have hparse : vuParse (a :: b :: c :: d :: e :: rest) = vuParseFrom acc 4 (e :: rest) := hfour (e :: rest)
    rw [hparse, vuParseFrom]
    obtain ⟨he, v, hv⟩ | ⟨he, hv⟩ := vuStep_fifth acc e <;> rw [hv]
    · exact ⟨fun h => absurd h (by omega), fun _ => ⟨v, rfl⟩⟩
    · exact ⟨fun _ => rfl, fun h => absurd h (by omega)⟩
  · obtain ⟨acc, hend⟩ := vuParseFrom_of_msb (n := 0) (m := ⟨s.length, by omega⟩) 0 hs (Nat.zero_add _).symm
    have hparse := hend []
    rwa [List.append_nil] at hparse

/-! ### VU.DBYTE -/

/-- The value that a byte goes on with: none begun after one that is done or an error (41_varuint.md R126). -/
theorem vuRestart_eq {s : State} {acc : Word32} {n : Fin 5}
    (h : (acc, n) = if s.vuSt = .done ∨ s.vuSt = .err then (0, 0) else (s.vuAcc, s.vuN)) :
    vuRestart s = { s with vuAcc := acc, vuN := n } := by
  unfold vuRestart
  split at h <;> cases h
  · next hr => rw [if_pos hr]
  · next hr => rw [if_neg hr]

/-- VU.DBYTE takes its byte from the value that it goes on with. -/
theorem exec_vuDbyte {s : State} {acc : Word32} {n : Fin 5} (b : Byte)
    (h : (acc, n) = if s.vuSt = .done ∨ s.vuSt = .err then (0, 0) else (s.vuAcc, s.vuN)) :
    exec (.vuDbyte b) s = .next (vuTake b { s with vuAcc := acc, vuN := n }) := by
  rw [← vuRestart_eq h]
  rfl

/-! ### VU.DECODE -/

/-- VU.DBYTE over the rest of a value: `MORE` for each byte but the last, and then the value (41_varuint.md R126). -/
theorem execList_vuDbyte {x : List Byte} {s : State} {v : Word32} (hd : s.vuSt ≠ .done) (he : s.vuSt ≠ .err)
    (hx : vuParseFrom s.vuAcc s.vuN x = .ok v []) :
    execList (x.map .vuDbyte) s =
      .next { s with
        vuAcc := v, vuN := 0, vuSt := .done
        out := s.out ++ List.replicate (x.length - 1) (.vuResult .more 0) ++ [.vuResult .done v] } := by
  induction x generalizing s with
  | nil => cases hx
  | cons b x ih =>
    have hgo : (s.vuAcc, s.vuN) = if s.vuSt = .done ∨ s.vuSt = .err then (0, 0) else (s.vuAcc, s.vuN) := by
      simp [hd, he]
    rw [vuParseFrom] at hx
    rw [List.map_cons, execList, exec_vuDbyte b hgo, vuTake]
    obtain ⟨-, -, a, hs⟩ | ⟨w, hs⟩ | ⟨-, hs⟩ := vuStep_cases s.vuAcc s.vuN b <;> rw [hs] at hx ⊢
    · cases x with
      | nil => cases hx
      | cons c x =>
        refine (ih (s := { s with vuAcc := a, vuN := s.vuN + 1, vuSt := .more, out := s.out ++ [.vuResult .more 0] })
          nofun nofun hx).trans ?_
        simp [List.replicate_succ]
    · obtain ⟨rfl, rfl⟩ : w = v ∧ x = [] := by simpa using hx
      simp [execList, emit]
    · cases hx

/-- Settles O11: VU.DRST leaves no value begun, and the bytes are an encoding of the value. -/
theorem vuDecodeOfVuEnc : Obligations.VuDecodeOfVuEnc :=
  fun v s => execList_vuDbyte (s := { s with vuAcc := 0, vuN := 0, vuSt := .idle }) nofun nofun (vuEnc_spells v)

/-! ### The unit's operations -/

/-- Settles O8: the opcode by the round trip of the command port, the answer and the values by evaluation. -/
theorem vuEncAnswersTheEncoding : Obligations.VuEncAnswersTheEncoding :=
  ⟨fun v r => decodeOfEncodeIsTheInstruction (.vuEnc v) r rfl, fun _ _ => rfl, by decide, by decide, by decide,
    by decide, by decide⟩

/-- Settles O9: VU.DRST writes the three registers of the decoder, whatever stood in them. -/
theorem vuDrstClearsTheDecoder : Obligations.VuDrstClearsTheDecoder :=
  ⟨fun _ => rfl, fun _ => rfl, fun _ => ⟨_, rfl, rfl, rfl⟩⟩

/-- Settles O10: a case for each result of `vu_step`, and the example as VU.DECODE of what `vu_enc` writes for 300. -/
theorem vuDbyteFeedsTheDecoder : Obligations.VuDbyteFeedsTheDecoder := by
  refine ⟨fun _ _ => rfl, fun b s acc n h => ?_, fun s => ?_⟩
  · rw [exec_vuDbyte b h, vuTake]
    obtain ⟨-, -, a, hs⟩ | ⟨v, hs⟩ | ⟨-, hs⟩ := vuStep_cases acc n b <;> rw [hs] <;> rfl
  · have henc : vuEnc 300 = [0xAC, 0x02] := by decide
    have hrun := vuDecodeOfVuEnc 300 s
    rw [henc] at hrun
    exact ⟨_, hrun, by simp, rfl⟩

end Sys2Proof.Machine
end

section
/-! The demultiplexer looks at the arena and the configuration only (43_demux.md R180 to R189): a change of other parts
of the state can be made before the walk of a payload or after it. What the walk adds to the events follows, and that
the receiver's registers and the earlier events do not steer it. -/

namespace Sys2Proof.Machine

/-! ### Changes of the state that the demultiplexer does not see -/

/-- The events that a walk emits: `DISPATCH` and `CH_RD_DONE` (43_demux.md R184, R186). -/
def isDemuxEvent : Event → Bool
  | .dispatch _ _ _ _ | .chRdDone _ _ _ => true
  | _ => false

/-- `σ` keeps the arena and the configuration, and commutes with each elementary effect of a walk. -/
structure DemuxMap (σ : State → State) : Prop where
  slots_eq : ∀ s, (σ s).slots = s.slots := by intro s; rfl
  cfg_eq : ∀ s, (σ s).cfg = s.cfg := by intro s; rfl
  setSlot_map : ∀ i sl s, setSlot i sl (σ s) = σ (setSlot i sl s) := by intro i sl s; rfl
  raiseFault_map : ∀ b s, raiseFault b (σ s) = σ (raiseFault b s) := by intro b s; rfl
  emit_map : ∀ e s, isDemuxEvent e = true → emit e (σ s) = σ (emit e s)

/-- A change of the events that goes through with events added at the end. -/
theorem DemuxMap.ofOut {g : List Event → List Event}
    (hg : ∀ l e, isDemuxEvent e = true → g (l ++ [e]) = g l ++ [e]) :
    DemuxMap fun s => { s with out := g s.out } where
  emit_map e s he := by simp only [emit, hg s.out e he]

namespace DemuxMap

variable {σ : State → State} (h : DemuxMap σ)

include h

theorem slotAt_map (s : State) (i : Nat) : slotAt (σ s) i = slotAt s i := by
  rw [slotAt_eq, slotAt_eq, h.slots_eq]

theorem raiseIfFatal_map (b : FaultBit) (s : State) : raiseIfFatal b (σ s) = σ (raiseIfFatal b s) := by
  unfold raiseIfFatal
  rw [h.cfg_eq]
  split
  · exact h.raiseFault_map b s
  · rfl

theorem queueIn_map (i : Nat) (d : List Byte) (s : State) : queueIn i d (σ s) = σ (queueIn i d s) := by
  unfold queueIn
  simp only [h.slotAt_map, h.cfg_eq]
  split
  · rw [h.raiseIfFatal_map, h.setSlot_map]
  · rw [h.setSlot_map]

theorem findSlot_map (ch : Word32) (s : State) : findSlot ch (σ s) = findSlot ch s := by
  rw [findSlot, h.slots_eq, findSlot]

theorem freeSlot_map (s : State) : freeSlot (σ s) = freeSlot s := by
  rw [freeSlot, h.slots_eq, freeSlot]

theorem slotLookup_map (ch : Word32) (create : Bool) (s : State) :
    slotLookup ch create (σ s) = (slotLookup ch create s).map id σ := by
  unfold slotLookup
  rw [h.findSlot_map, h.freeSlot_map]
  cases findSlot ch s with
  | some i => rfl
  | none =>
    cases create with
    | false => rfl
    | true =>
      cases freeSlot s with
      | some i => simp only [if_true, h.slotAt_map, h.setSlot_map]; rfl
      | none => rfl

theorem tunnelRxSlot_map (i : Nat) (ch : Word32) (d : List Byte) (s : State) :
    tunnelRxSlot i ch d (σ s) = σ (tunnelRxSlot i ch d s) := by
  have hdone (data : List Byte) (u : State) :
      emit (.chRdDone ch .ok data) (σ u) = σ (emit (.chRdDone ch .ok data) u) := h.emit_map _ u rfl
  unfold tunnelRxSlot
  simp only [h.slotAt_map, h.setSlot_map, hdone, h.queueIn_map]
  split
  · rfl
  · split
    · split <;> rfl
    · rfl

theorem tunnelRx_map (ch : Word32) (d : List Byte) (s : State) : tunnelRx ch d (σ s) = σ (tunnelRx ch d s) := by
  unfold tunnelRx
  rw [h.slotLookup_map]
  obtain ⟨_ | i, s'⟩ := slotLookup ch true s
  · exact h.raiseIfFatal_map .slotExhausted s'
  · exact h.tunnelRxSlot_map i ch d s'

theorem handleTunnel_map (tag : Byte) (ch : Word32) (d : List Byte) (s : State) :
    handleTunnel tag ch d (σ s) = σ (handleTunnel tag ch d s) := by
  unfold handleTunnel
  rw [h.cfg_eq]
  split
  · exact h.tunnelRx_map ch d s
  · rfl

theorem handleSubframe_map (sub : Subframe) (s : State) : handleSubframe sub (σ s) = σ (handleSubframe sub s) := by
  cases sub with
  | tunnelC2s ch d => exact h.handleTunnel_map 0x40 ch d s
  | tunnelS2c ch d => exact h.handleTunnel_map 0x41 ch d s
  | _ => exact h.emit_map _ s rfl

theorem walkFrom_map (n : Nat) (p : List Byte) (s : State) : walkFrom n p (σ s) = σ (walkFrom n p s) := by
  induction n generalizing p s with
  | zero => rfl
  | succ n ih =>
    unfold walkFrom
    split
    · rfl
    · split
      · rw [h.handleSubframe_map, ih]
      · rfl

theorem walk_map (p : List Byte) (s : State) : walk p (σ s) = σ (walk p s) := h.walkFrom_map p.length p s

end DemuxMap

/-! ### The events of a delivery -/

/-- A walk adds events of its own kinds to those before: on no events it has no others, and with others before them it
adds the same. -/
theorem walk_out (p : List Byte) (s : State) :
    ∃ es, (walk p s).out = s.out ++ es ∧ ∀ e ∈ es, isDemuxEvent e = true := by
  have hbefore : DemuxMap fun u => { u with out := s.out ++ u.out } :=
    .ofOut fun l e _ => (List.append_assoc s.out l [e]).symm
  have hkinds : DemuxMap fun u => { u with out := u.out.filter isDemuxEvent } :=
    .ofOut fun l e he => by simp [List.filter_append, he]
  refine ⟨(walk p { s with out := [] }).out, ?_, fun e he => ?_⟩
  · simpa using congrArg State.out (hbefore.walk_map p { s with out := [] })
  · have hself : (walk p { s with out := [] }).out = (walk p { s with out := [] }).out.filter isDemuxEvent := by
      simpa using congrArg State.out (hkinds.walk_map p { s with out := [] })
    rw [hself] at he
    exact (List.mem_filter.mp he).2

/-- A completion is not among the events that the demultiplexer emits before it (42_frame.md R148). -/
theorem demuxFrame_out (dst : Byte) (p raw : List Byte) (s : State) :
    ∃ es, (demuxFrame dst p raw s).out = s.out ++ es ∧ ∀ e ∈ es, isFrameRdDone e = false := by
  unfold demuxFrame
  split
  · obtain ⟨es, hes, hkind⟩ := walk_out p s
    refine ⟨es, hes, fun e he => ?_⟩
    have hk := hkind e he
    cases e with
    | frameRdDone => cases hk
    | _ => rfl
  · exact ⟨[.unknownFrame raw], rfl, by simp [isFrameRdDone]⟩

/-- A delivery completes the read once, at the end (42_frame.md R148). -/
theorem rxDeliver_out_once (s : State) :
    ∃ es, (rxDeliver s).out = s.out ++ es ++
        [.frameRdDone .ok (some
          { rr := s.rxSrc.msb, src := s.rxSrc.setWidth 7, dst := s.rxDst, payload := s.rxPay
            forUs := isForUs s.cfg s.rxDst })] ∧
      ∀ e ∈ es, isFrameRdDone e = false := by
  obtain ⟨es, hes, honce⟩ := demuxFrame_out s.rxDst s.rxPay s.rxRaw (rxResync { s with rxArmed := false })
  exact ⟨es, by rw [rxDeliver, emit_out, hes]; rfl, honce⟩

end Sys2Proof.Machine
end

section
/-! The frame serializer and the transport handshake (42_frame.md R141 to R145, R149): each operation as one equation
per case, and the examples that the rules give. -/

namespace Sys2Proof.Machine

/-! ### FRAME.WRITE and TR.WDONE -/

theorem exec_frameWrite_of_ready {rr : Byte} {src dst : Word32} {p : List Byte} {s : State} (hb : s.txBusy = false)
    (hrr : rr.toNat ≤ 1) (hsrc : src.toNat ≤ 127) (hdst : dst.toNat ≤ 255) (hp : p.length ≤ s.cfg.maxPayload) :
    exec (.frameWrite rr src dst p) s =
      .next { s with txBusy := true, out := s.out ++ [.trWriteReq (frameBytes rr src dst p)] } := by
  have hvalid : ¬ (rr.toNat > 1 ∨ src.toNat > 127 ∨ dst.toNat > 255 ∨ p.length > s.cfg.maxPayload) := by omega
  change execFrameWrite rr src dst p s = _
  rw [execFrameWrite, if_neg (Bool.eq_false_iff.mp hb), if_neg hvalid]
  rfl

theorem exec_trWdone_of_busy {o : OutCode} {s : State} (ho : o = .ok ∨ o = .errTransport) (hb : s.txBusy = true) :
    exec (.trWdone o) s = .next { s with txBusy := false, out := s.out ++ [.frameWrDone o] } := by
  change execTrWdone o s = _
  rw [execTrWdone, if_pos ho, if_pos hb]
  rfl

set_option maxRecDepth 20000 in
/-- Vector F1 of 95_test_vectors.md, the example of 42_frame.md R141. -/
theorem frameBytes_empty : frameBytes 0 1 2 [] = [0x54, 0xAB, 0x01, 0x02, 0x00, 0x03, 0x28] := by decide

/-- Settles O16: busy is asked before the operands' range, and both before the write is accepted. -/
theorem frameWriteCases : Obligations.FrameWriteCases := by
  refine ⟨fun rr src dst p r hp => ?_, fun rr src dst p s => exec_frameWrite_of_ready, fun rr src dst p s hb => ?_,
    fun rr src dst p s hb hbad => ?_, frameBytes_empty⟩
  · have hdec := decodeCommand_encode (i := .frameWrite rr src dst p) rfl (decide_eq_true hp) r
    simpa [encode] using hdec
  · change execFrameWrite rr src dst p s = _
    rw [execFrameWrite, if_pos hb]
    rfl
  · change execFrameWrite rr src dst p s = _
    rw [execFrameWrite, if_neg (Bool.eq_false_iff.mp hb), if_pos hbad]
    rfl

/-- Only `OK` and `ERR_TRANSPORT` spell an outcome of TR.WDONE (30_encoding.md R90). -/
theorem takeOut8_of_lt {b : Byte} (h : 1 < b.toNat) (r : List Byte) : takeOut8 (b :: r) = .err (.badOutcome b) := by
  have h0 : b ≠ 0x00 := by rintro rfl; exact absurd h (by decide)
  have h1 : b ≠ 0x01 := by rintro rfl; exact absurd h (by decide)
  rw [takeOut8, if_neg h0, if_neg h1]

/-- Settles O18: the write is completed and the transmitter is free; with none outstanding the answer has no step. -/
theorem trWdoneCompletesTheWrite : Obligations.TrWdoneCompletesTheWrite := by
  refine ⟨fun r => ⟨rfl, rfl⟩, fun o s ho => ⟨exec_trWdone_of_busy ho, exec_trWdone_of_idle ho⟩,
    fun b r hb => ?_, fun s hb => ?_⟩
  · change (takeOut8 (b :: r)).map Instr.trWdone = _
    rw [takeOut8_of_lt hb, Parse.map_err]
  · have hwrite := exec_frameWrite_of_ready (rr := 0) (src := 1) (dst := 2) (p := []) hb (by decide) (by decide)
      (by decide) (Nat.zero_le _)
    rw [execList, hwrite, frameBytes_empty]
    exact ⟨_, rfl, rfl, by simp⟩

/-! ### FRAME.READ and RX.FETCH -/

theorem exec_frameRead_of_unarmed {s : State} (ha : s.rxArmed = false) :
    exec .frameRead s = .next { s with rxArmed := true } := by
  change execFrameRead s = _
  rw [execFrameRead, if_neg (Bool.eq_false_iff.mp ha)]

theorem exec_rxFetch_of_enabled {s : State} (ha : s.rxArmed = true) (hf : s.inFifo = []) (hp : s.trRdPending = false) :
    exec .rxFetch s =
      .next { s with trRdPending := true, out := s.out ++ [.trReadReq s.cfg.rxChunkMax] } := by
  change execRxFetch s = _
  rw [execRxFetch, if_pos (by simp [rxFetchEnabled, ha, hf, hp])]
  rfl

/-- The example of 42_frame.md R143: on a block just constructed, a read asks for one chunk. -/
theorem execList_read_fetch (c : Config) :
    ∃ t : State, execList [.frameRead, .rxFetch] (State.init c) = .next t ∧ t.out = [.trReadReq c.rxChunkMax] :=
  ⟨_, rfl, rfl⟩

/-- Settles O19: the armed receiver takes the bytes left to it before it asks for more. -/
theorem frameReadArms : Obligations.FrameReadArms := by
  refine ⟨fun _ => rfl, fun s ha => ⟨_, rfl, exec_frameRead_of_unarmed ha, fun hf => internalStep_of_byte rfl hf,
    fun hf hp => internalStep_of_fetch rfl hf hp⟩, fun s ha => ?_, execList_read_fetch⟩
  change execFrameRead s = _
  rw [execFrameRead, if_pos ha]
  rfl

/-- Settles O20: the guard is that the receiver is armed, has no byte left and has no read outstanding. -/
theorem rxFetchAsksForAChunk : Obligations.RxFetchAsksForAChunk := by
  refine ⟨fun s => exec_rxFetch_of_enabled, fun s hoff => ?_, execList_read_fetch⟩
  have hguard : rxFetchEnabled s = false := by
    obtain ha | hf | hp := hoff
    · simp [rxFetchEnabled, ha]
    · simp [rxFetchEnabled, hf]
    · simp [rxFetchEnabled, hp]
  change execRxFetch s = _
  rw [execRxFetch, if_neg (Bool.eq_false_iff.mp hguard)]

/-! ### TR.RDONE and TR.RERR -/

theorem exec_trRdone_of_pending {chunk : List Byte} {s : State} (hp : s.trRdPending = true)
    (hl : chunk.length ≤ s.cfg.rxChunkMax) :
    exec (.trRdone chunk) s = .next { s with trRdPending := false, inFifo := chunk } := by
  change execTrRdone chunk s = _
  rw [execTrRdone, if_pos hp, if_pos hl]

/-- Settles O21: an outstanding read is answered by a chunk that fits, or by an error, which ends the frame read too. -/
theorem transportReadAnswers : Obligations.TransportReadAnswers := by
  refine ⟨fun chunk s => exec_trRdone_of_pending, fun chunk s hp hl => ?_, fun s hp => ?_,
    fun chunk s hp => ⟨exec_trRdone_of_idle chunk hp, exec_trRerr_of_idle hp⟩⟩
  · change execTrRdone chunk s = _
    rw [execTrRdone, if_pos hp, if_neg (Nat.not_le.mpr hl)]
  · change execTrRerr s = _
    rw [execTrRerr, if_pos hp]
    rfl

end Sys2Proof.Machine
end

section
/-! RX.BYTE as a transition table (42_frame.md R151): one byte in each value of `rx_state`. -/

namespace Sys2Proof.Machine

theorem exec_rxByte_cons {s : State} {b : Byte} {rest : List Byte} (ha : s.rxArmed = true) (hf : s.inFifo = b :: rest) :
    exec .rxByte s = .next (rxTake b { s with inFifo := rest }) := execRxByte_cons ha hf

/-- The checksum of the first magic byte (42_frame.md R147). -/
theorem rxStart_eq (s : State) : rxStart s = { s with rxState := .hunt1, rxRaw := [0x54], rxCrc := 0xFB81 } := by
  have hcrc : crcStep crcInit 0x54 = 0xFB81 := by decide
  rw [rxStart, hcrc]

/-- Settles O22: each row by the definition that takes a byte in its state. -/
theorem rxByteTableHead : Obligations.RxByteTableHead := by
  intro b rest s ha hf
  rw [exec_rxByte_cons ha hf]
  refine ⟨fun hst hb => ?_, fun hst hb => ?_, fun hst hb => ?_, fun hst hb => ?_, fun hst hb hb' => ?_, fun hst => ?_,
    fun hst => ?_⟩
  · rw [rxTake_hunt0 b { s with inFifo := rest } hst, rxHunt0, if_pos hb, rxStart_eq]
  · rw [rxTake_hunt0 b { s with inFifo := rest } hst, rxHunt0, if_neg hb]
  · rw [rxTake_hunt1 b { s with inFifo := rest } hst, rxHunt1, if_pos hb]
    rfl
  · subst hb
    rw [rxTake_hunt1 0x54 { s with inFifo := rest } hst, rxHunt1, if_neg (by decide), if_pos rfl, rxStart_eq]
  · rw [rxTake_hunt1 b { s with inFifo := rest } hst, rxHunt1, if_neg hb, if_neg hb']
    rfl
  · rw [rxTake_src b { s with inFifo := rest } hst]
    rfl
  · rw [rxTake_dst b { s with inFifo := rest } hst]
    rfl

/-- A length that fits is kept, and the payload follows, if there is one (42_frame.md R150). -/
theorem rxGotLen_of_le {v : Word32} {s : State} (h : v.toNat ≤ s.cfg.maxPayload) :
    rxGotLen v s =
      { s with rxLen := v, rxPay := [], rxVacc := 0, rxVn := 0, rxState := if v = 0 then .crc0 else .payload } :=
  if_neg (Nat.not_lt.mpr h)

/-- A length above MAX_PAYLOAD ends the frame (42_frame.md R150). -/
theorem rxGotLen_of_lt {v : Word32} {s : State} (h : s.cfg.maxPayload < v.toNat) :
    rxGotLen v s =
      { s with
        rxState := .hunt0, rxRaw := [], rxPay := [], rxVacc := 0, rxVn := 0, rxLen := 0
        fault := if s.cfg.overflowPolicy = .fatal then s.fault ||| 0x80 else s.fault } := by
  rw [rxGotLen, if_pos h, raiseIfFatal]
  split
  · rfl
  · rfl

theorem rxTake_len_more {b : Byte} {s : State} {a : Word32} {n : Fin 5} (hst : s.rxState = .len)
    (hv : vuStep s.rxVacc s.rxVn b = (a, n, .more)) :
    rxTake b s = { rxAcc b s with rxVacc := a, rxVn := n } := by
  rw [rxTake_len b s hst, rxTakeLen, hv]

theorem rxTake_len_err {b : Byte} {s : State} (hst : s.rxState = .len)
    (hv : vuStep s.rxVacc s.rxVn b = (0, 0, .err)) : rxTake b s = rxResync (rxAcc b s) := by
  rw [rxTake_len b s hst, rxTakeLen, hv]

theorem rxTake_len_done {b : Byte} {s : State} {v : Word32} (hst : s.rxState = .len)
    (hv : vuStep s.rxVacc s.rxVn b = (0, 0, .done v)) : rxTake b s = rxGotLen v (rxAcc b s) := by
  rw [rxTake_len b s hst, rxTakeLen, hv]

theorem rxTake_crc1_match {b : Byte} {s : State} (hst : s.rxState = .crc1) (hcrc : ofLe16 s.rxCrcLo b = s.rxCrc) :
    rxTake b s = rxDeliver { s with rxRaw := s.rxRaw ++ [b] } := by
  rw [rxTake_crc1 b s hst, rxTakeCrc1, if_pos hcrc]

theorem rxTake_crc1_mismatch {b : Byte} {s : State} (hst : s.rxState = .crc1) (hcrc : ofLe16 s.rxCrcLo b ≠ s.rxCrc) :
    rxTake b s = rxResync { s with rxRaw := s.rxRaw ++ [b] } := by
  rw [rxTake_crc1 b s hst, rxTakeCrc1, if_neg hcrc]

/-- A delivery ends the read (42_frame.md R148). -/
theorem rxDeliver_rxArmed (s : State) : (rxDeliver s).rxArmed = false := by
  cases h : isForUs s.cfg s.rxDst with
  | true => rw [(rxDeliver_forUs h).outsideReceiver]; rfl
  | false => rw [rxDeliver_elsewhere h]; rfl

/-- Settles O23: each row by the definition that takes a byte in its state, the length's by what `vu_step` answers. -/
theorem rxByteTableBody : Obligations.RxByteTableBody := by
  intro b rest s ha hf
  rw [exec_rxByte_cons ha hf]
  refine ⟨fun a n hst hv => ?_, fun hst hv => ?_, fun v hst hv hle => ?_, fun v hst hv hlt => ?_, fun hst => ?_,
    fun hst => ?_, fun hst hcrc => ?_, fun hst hcrc => ⟨_, rfl, ?_⟩⟩
  · rw [rxTake_len_more (s := { s with inFifo := rest }) hst hv]
    rfl
  · rw [rxTake_len_err (s := { s with inFifo := rest }) hst hv]
    rfl
  · rw [rxTake_len_done (s := { s with inFifo := rest }) hst hv,
      rxGotLen_of_le (s := rxAcc b { s with inFifo := rest }) hle]
    rfl
  · rw [rxTake_len_done (s := { s with inFifo := rest }) hst hv,
      rxGotLen_of_lt (s := rxAcc b { s with inFifo := rest }) hlt]
    rfl
  · rw [rxTake_payload b { s with inFifo := rest } hst]
    simp [rxTakePay, rxAcc]
  · rw [rxTake_crc0 b { s with inFifo := rest } hst]
    rfl
  · rw [rxTake_crc1_mismatch (s := { s with inFifo := rest }) hst hcrc]
    rfl
  · obtain ⟨-, -, hfifo, -⟩ := rxTake_frame b { s with inFifo := rest }
    refine ⟨?_, ?_, hfifo⟩
    · rw [rxTake_crc1_match (s := { s with inFifo := rest }) hst hcrc]
      exact (rxDeliver_resynced _).hunting
    · rw [rxTake_crc1_match (s := { s with inFifo := rest }) hst hcrc]
      exact rxDeliver_rxArmed _

end Sys2Proof.Machine
end

section
/-! The two length errors (42_frame.md R150, R152), the delivery of a frame with the right checksum (R148, 43_demux.md
R180, R181), and a frame as steps of its bytes (log 9). -/

namespace Sys2Proof.Machine

/-! ### A length that is refused -/

/-- RX.BYTE on bytes at the head of `in_fifo` leaves those behind them. -/
theorem Takes.run {bytes rest : List Byte} {s t : State} (h : Takes bytes s t) (hf : s.inFifo = bytes ++ rest) :
    rxByteN bytes.length s = { t with inFifo := rest } := by
  have hrun := h rest
  rw [← hf] at hrun
  exact hrun

/-- A length field that does not stop short has a byte `b` that ends it; the receiver is in `LEN` up to that byte, and
has decoded what `vu_parse` has (41_varuint.md R122, R123). -/
theorem takes_len_upto_last {s : State} {len : List Byte} (ha : s.rxArmed = true) (hst : s.rxState = .len)
    (hlen : vuParseFrom s.rxVacc s.rxVn len ≠ .err .truncated) :
    ∃ (x : List Byte) (b : Byte) (y : List Byte) (a : Word32) (n : Fin 5),
      len = x ++ b :: y ∧ n.val = s.rxVn.val + x.length ∧
      Takes x s
        { s with rxVacc := a, rxVn := n, rxRaw := s.rxRaw ++ x, rxCrc := x.foldl crcStep s.rxCrc } ∧
      vuParseFrom s.rxVacc s.rxVn len = vuParseFrom a n (b :: y) ∧
      ((∃ v, vuStep a n b = (0, 0, .done v)) ∨ (n = 4 ∧ vuStep a n b = (0, 0, .err))) := by
  induction len generalizing s with
  | nil => exact absurd rfl hlen
  | cons b len ih =>
    obtain ⟨hn, -, a, hs⟩ | hend := vuStep_cases s.rxVacc s.rxVn b
    · have hparse : vuParseFrom s.rxVacc s.rxVn (b :: len) = vuParseFrom a (s.rxVn + 1) len := by
        rw [vuParseFrom, hs]
      obtain ⟨x, c, y, a', n, rfl, hval, htakes, hrest, hend⟩ :=
        ih (s := { rxAcc b s with rxVacc := a, rxVn := s.rxVn + 1 }) ha hst (by rwa [hparse] at hlen)
      have hfirst : Takes [b] s { rxAcc b s with rxVacc := a, rxVn := s.rxVn + 1 } :=
        .one ha fun r => rxTake_len_more (s := { s with inFifo := r }) hst hs
      have hall := hfirst.append htakes
      refine ⟨b :: x, c, y, a', n, rfl, ?_, by simpa [rxAcc] using hall, hparse.trans hrest, hend⟩
      rw [hval, val_add_one_of_ne_four hn, List.length_cons]
      omega
    · exact ⟨[], b, len, s.rxVacc, s.rxVn, rfl, rfl, by simpa using Takes.nil s, rfl, hend⟩

theorem takes_len_tooLong_last {s : State} {b : Byte} {v : Word32} (ha : s.rxArmed = true) (hst : s.rxState = .len)
    (hs : vuStep s.rxVacc s.rxVn b = (0, 0, .done v)) (hv : s.cfg.maxPayload < v.toNat) :
    Takes [b] s
      { rxResync (rxAcc b s) with
        fault := if s.cfg.overflowPolicy = .fatal then s.fault ||| 0x80 else s.fault } :=
  .one ha fun r => (rxTake_len_done (s := { s with inFifo := r }) hst hs).trans
    (rxGotLen_of_lt (s := rxAcc b { s with inFifo := r }) hv)

theorem takes_len_overlong_last {s : State} {b : Byte} (ha : s.rxArmed = true) (hst : s.rxState = .len)
    (hs : vuStep s.rxVacc s.rxVn b = (0, 0, .err)) : Takes [b] s (rxResync (rxAcc b s)) :=
  .one ha fun r => rxTake_len_err (s := { s with inFifo := r }) hst hs

/-- A length above MAX_PAYLOAD, in any form: the receiver hunts again, and FATAL sets the fault bit. -/
theorem takes_len_tooLong {s : State} {len : List Byte} {v : Word32} (ha : s.rxArmed = true) (hst : s.rxState = .len)
    (hlen : vuParseFrom s.rxVacc s.rxVn len = .ok v []) (hv : s.cfg.maxPayload < v.toNat) :
    Takes len s
      { rxResync s with
        rxCrc := len.foldl crcStep s.rxCrc
        fault := if s.cfg.overflowPolicy = .fatal then s.fault ||| 0x80 else s.fault } := by
  obtain ⟨x, b, y, a, n, rfl, -, htakes, hparse, ⟨w, hs⟩ | ⟨-, hs⟩⟩ :=
    takes_len_upto_last ha hst (by rw [hlen]; exact nofun)
  · rw [hlen, vuParseFrom, hs] at hparse
    obtain ⟨rfl, rfl⟩ : v = w ∧ y = [] := by simpa using hparse
    have hall := htakes.append (takes_len_tooLong_last ha hst hs hv)
    simpa [rxAcc, rxResync] using hall
  · rw [hlen, vuParseFrom, hs] at hparse
    cases hparse

/-- Five bytes that are no varuint: the receiver hunts again at the fifth (41_varuint.md R128). -/
theorem takes_len_overlong {s : State} {len : List Byte} (ha : s.rxArmed = true) (hst : s.rxState = .len)
    (hlen : vuParseFrom s.rxVacc s.rxVn len = .err .badVaruint) (hl : s.rxVn.val + len.length = 5) :
    Takes len s { rxResync s with rxCrc := len.foldl crcStep s.rxCrc } := by
  obtain ⟨x, b, y, a, n, rfl, hn, htakes, hparse, ⟨w, hs⟩ | ⟨rfl, hs⟩⟩ :=
    takes_len_upto_last ha hst (by rw [hlen]; exact nofun)
  · rw [hlen, vuParseFrom, hs] at hparse
    cases hparse
  · obtain rfl : y = [] := by
      rw [List.length_append, List.length_cons] at hl
      rw [← List.length_eq_zero_iff]
      omega
    have hall := htakes.append (takes_len_overlong_last ha hst hs)
    simpa [rxAcc, rxResync] using hall

/-- Settles O24: the head, and then a length field that the receiver refuses at the byte that ends it. -/
theorem lengthErrorsResyncAtOnce : Obligations.LengthErrorsResyncAtOnce := by
  intro flag dst len rest s ha hst hf
  have hhead := takes_head flag dst ha hst
  have hlength : 4 + len.length = ([0x54, 0xAB, flag, dst] ++ len).length := by
    rw [List.length_append]
    rfl
  refine ⟨_, rfl, ?_, fun hl hbad => ?_⟩
  · rintro ⟨v, hlen, hv⟩
    have hrun := (hhead.append (takes_len_tooLong ha rfl hlen hv)).run hf
    rw [hlength, hrun]
    simp [rxResync, crc16, hst]
  · have hrun := (hhead.append (takes_len_overlong ha rfl hbad ((Nat.zero_add _).trans hl))).run hf
    rw [hlength, hrun]
    simp [rxResync, crc16, hst]

/-! ### A frame with the right checksum -/

/-- At the last byte of a frame with the right checksum the receiver holds all of it, verbatim, and delivers it
(42_frame.md R148, R150). -/
theorem rxTakeCrc1_holdingFrame {rr : Bool} {src : BitVec 7} {dst : Byte} {len p : List Byte} {crc : Word16}
    (s : State) (hcrc : crc = crc16 ([0x54, 0xAB, flagByte rr src, dst] ++ len ++ p)) :
    rxTakeCrc1 (crc.extractLsb' 8 8) (holdingFrame (flagByte rr src) dst len p (crc.extractLsb' 0 8) s) =
      rxDeliver { holdingFrame (flagByte rr src) dst len p (crc.extractLsb' 0 8) s with
        rxRaw := encodeFrame rr src dst len p crc } := by
  rw [rxTakeCrc1, if_pos (by rw [holdingFrame, ofLe16_le16]; exact hcrc)]
  simp [holdingFrame, encodeFrame, le16]

/-- A frame for this block: the walk of its payload, and then the completion (42_frame.md R148). -/
theorem rxDeliver_forUs_eq {s : State} (h : isForUs s.cfg s.rxDst = true) :
    rxDeliver s =
      emit (.frameRdDone .ok (some
          { rr := s.rxSrc.msb, src := s.rxSrc.setWidth 7, dst := s.rxDst, payload := s.rxPay, forUs := true }))
        (walk s.rxPay (rxResync { s with rxArmed := false })) := by
  rw [rxDeliver, demuxFrame, rxResync_cfg, h]
  rfl

/-- The receiver just before it delivers a frame: the read is over, and of the frame only its address fields and
checksum are left (42_frame.md R148). -/
def deliveringFrame (flag dst : Byte) (len p : List Byte) (lo : Byte) (s : State) : State :=
  rxResync { holdingFrame flag dst len p lo s with rxArmed := false }

theorem deliveringFrame_demuxMap (flag dst : Byte) (len p : List Byte) (lo : Byte) :
    DemuxMap (deliveringFrame flag dst len p lo) where
  emit_map _ _ _ := rfl

/-- Settles O27: the receiver delivers at the last byte; the walk of its payload does not depend on the registers that
the frame was received in. -/
theorem validFrameIsDelivered : Obligations.ValidFrameIsDelivered := by
  intro rr src dst len p crc s ha hst hwf hp hcrc
  have hlow : crc.extractLsb' 0 8 = crc.setWidth 8 := (BitVec.setWidth_eq_extractLsb' (by decide)).symm
  have hsum : crc16 (0x54 :: 0xAB :: flagByte rr src :: dst :: (len ++ p)) = crc := by
    rw [hcrc]
    simp
  refine ⟨_, rfl, fun hdst => ?_, fun hdst => ?_⟩
  · rw [exec_frame ha hst hwf hp, rxTakeCrc1_holdingFrame s hcrc, rxDeliver_elsewhere (isForUs_eq_false.mpr hdst)]
    simpa [rxResync, holdingFrame, hst, hlow, msb_flagByte, setWidth_flagByte] using hsum
  · have hus : isForUs s.cfg dst = true := by simp [isForUs, hdst]
    have hwalk := (deliveringFrame_demuxMap (flagByte rr src) dst len p (crc.extractLsb' 0 8)).walk_map p s
    rw [exec_frame ha hst hwf hp, rxTakeCrc1_holdingFrame s hcrc, rxDeliver_forUs_eq hus]
    refine congrArg _ (Eq.trans (congrArg (emit _) hwalk) ?_)
    rw [walk_slotsFaultOut p s]
    simpa [emit, deliveringFrame, rxResync, holdingFrame, hst, hlow, msb_flagByte, setWidth_flagByte] using hsum

/-! ### A frame as steps of its bytes -/

theorem rxByteEnabled_iff {s : State} : rxByteEnabled s = true ↔ s.rxArmed = true ∧ s.inFifo ≠ [] := by
  simp [rxByteEnabled]

/-- Where RX.BYTE is enabled after `n` bytes it was enabled before each of them, so the next one is step `n + 1` of as
many. -/
theorem execList_rxByte {n : Nat} {s : State} (h : rxByteEnabled (rxByteN n s) = true) :
    execList (List.replicate (n + 1) .rxByte) s = .next (rxByteN (n + 1) s) := by
  induction n generalizing s with
  | zero =>
    have hen : rxByteEnabled s = true := h
    have hstep : exec .rxByte s = .next (rxByteStep s) := if_pos hen
    simp [execList, rxByteN, hen, hstep]
  | succ n ih =>
    have hen : rxByteEnabled s = true := by
      by_contra hoff
      rw [rxByteN, if_neg hoff] at h
      exact hoff h
    have hstep : exec .rxByte s = .next (rxByteStep s) := if_pos hen
    rw [rxByteN, if_pos hen] at h ⊢
    rw [List.replicate_succ, execList, hstep]
    exact ih h

/-- After all of a frame but its last byte, that byte is next (42_frame.md R150). -/
theorem rxByteN_upto_last {s : State} {len p rest : List Byte} {flag dst lo hi : Byte} (ha : s.rxArmed = true)
    (hst : s.rxState = .hunt0) (hlen : VuSpells (BitVec.ofNat 32 p.length) len) (hp32 : fits32 p)
    (hp : p.length ≤ s.cfg.maxPayload)
    (hf : s.inFifo = [0x54, 0xAB, flag, dst] ++ len ++ p ++ [lo, hi] ++ rest) :
    rxByteN ([0x54, 0xAB, flag, dst] ++ len ++ p ++ [lo]).length s =
      { holdingFrame flag dst len p lo s with inFifo := hi :: rest } :=
  (takes_upto_last flag dst lo ha hst hlen hp32 hp).run (by simpa using hf)

theorem encodeFrame_length (rr : Bool) (src : BitVec 7) (dst : Byte) (len p : List Byte) (crc : Word16) :
    (encodeFrame rr src dst len p crc).length =
      ([0x54, 0xAB, flagByte rr src, dst] ++ len ++ p ++ [crc.extractLsb' 0 8]).length + 1 := by
  simp only [encodeFrame, le16, List.length_append, List.length_cons, List.length_nil]

/-- No RX.BYTE of a frame's bytes is refused: the receiver is armed, and has a byte, up to the last one. -/
theorem execList_frame {s : State} {len p : List Byte} {rr : Bool} {src : BitVec 7} {dst : Byte} {crc : Word16}
    (ha : s.rxArmed = true) (hst : s.rxState = .hunt0) (hwf : (Instr.frame rr src dst len p crc).wf = true)
    (hp : p.length ≤ s.cfg.maxPayload) :
    execList (List.replicate (encodeFrame rr src dst len p crc).length .rxByte)
        { s with inFifo := encodeFrame rr src dst len p crc ++ s.inFifo } =
      exec (.frame rr src dst len p crc) s := by
  obtain ⟨hp32, hlen⟩ := wf_frame_iff.mp hwf
  have hupto := rxByteN_upto_last (s := { s with inFifo := encodeFrame rr src dst len p crc ++ s.inFifo })
    ha hst hlen hp32 hp rfl
  have hlast := execList_rxByte (by rw [hupto]; exact rxByteEnabled_iff.mpr ⟨ha, nofun⟩)
  rw [encodeFrame_length, hlast, ← encodeFrame_length]
  rfl

/-- Settles O56: a frame with the right checksum is one of those whose steps are all enabled. -/
theorem frameTakesOneRxByteStepPerByte : Obligations.FrameTakesOneRxByteStepPerByte := by
  rintro rr src dst len p s bytes ha hst hp rfl hwf
  exact execList_frame ha hst hwf hp

end Sys2Proof.Machine
end

section
/-! A byte stream cut into chunks (42_frame.md R154): what the receiver makes of it is a fold over its bytes, one after
another, in which the cutting does not occur; and a frame in it is delivered (R155). -/

namespace Sys2Proof.Machine

/-! ### The receiver does not see how the stream is cut -/

/-- A state without what says how the stream was cut: the `TR_READ_REQ` events, and the bytes still queued. -/
def drained (s : State) : State := { unchunked s with inFifo := [] }

theorem drained_eq_unchunked {s : State} (h : s.inFifo = []) : drained s = unchunked s := by
  rw [drained, ← show (unchunked s).inFifo = [] from h]

theorem emit_drained {e : Event} (he : isReadReq e = false) (s : State) : emit e (drained s) = drained (emit e s) := by
  simp [emit, drained, unchunked, List.filter_append, he]

theorem drained_demuxMap : DemuxMap drained where
  emit_map e s he := by
    refine emit_drained ?_ s
    cases e with
    | trReadReq => cases he
    | _ => rfl

theorem demuxFrame_drained (dst : Byte) (p raw : List Byte) (s : State) :
    demuxFrame dst p raw (drained s) = drained (demuxFrame dst p raw s) := by
  unfold demuxFrame
  rw [drained_demuxMap.cfg_eq]
  split
  · exact drained_demuxMap.walk_map p s
  · exact emit_drained rfl { s with wrongId := s.wrongId + 1 }

theorem rxDeliver_drained (s : State) : rxDeliver (drained s) = drained (rxDeliver s) :=
  (congrArg (emit _) (demuxFrame_drained s.rxDst s.rxPay s.rxRaw (rxResync { s with rxArmed := false }))).trans
    (emit_drained rfl _)

theorem rxGotLen_drained (v : Word32) (s : State) : rxGotLen v (drained s) = drained (rxGotLen v s) := by
  unfold rxGotLen
  rw [drained_demuxMap.cfg_eq, drained_demuxMap.raiseIfFatal_map]
  split
  · rfl
  · rfl

/-- Taking a byte reads neither `in_fifo` nor the events: by the state of the receiver (42_frame.md R150). -/
theorem rxTake_drained (b : Byte) (s : State) : rxTake b (drained s) = drained (rxTake b s) := by
  cases h : s.rxState with
  | hunt0 =>
    rw [rxTake_hunt0 b s h, rxTake_hunt0 b (drained s) h, rxHunt0, rxHunt0]
    split <;> rfl
  | hunt1 =>
    rw [rxTake_hunt1 b s h, rxTake_hunt1 b (drained s) h, rxHunt1, rxHunt1]
    split
    · rfl
    · split <;> rfl
  | src => rw [rxTake_src b s h, rxTake_src b (drained s) h]; rfl
  | dst => rw [rxTake_dst b s h, rxTake_dst b (drained s) h]; rfl
  | len =>
    obtain ⟨-, -, a, hs⟩ | ⟨v, hs⟩ | ⟨-, hs⟩ := vuStep_cases s.rxVacc s.rxVn b
    · rw [rxTake_len_more h hs, rxTake_len_more (s := drained s) h hs]
      rfl
    · rw [rxTake_len_done h hs, rxTake_len_done (s := drained s) h hs]
      exact rxGotLen_drained v (rxAcc b s)
    · rw [rxTake_len_err h hs, rxTake_len_err (s := drained s) h hs]
      rfl
  | payload => rw [rxTake_payload b s h, rxTake_payload b (drained s) h]; rfl
  | crc0 => rw [rxTake_crc0 b s h, rxTake_crc0 b (drained s) h]; rfl
  | crc1 =>
    by_cases hc : ofLe16 s.rxCrcLo b = s.rxCrc
    · rw [rxTake_crc1_match h hc, rxTake_crc1_match (s := drained s) h hc]
      exact rxDeliver_drained { s with rxRaw := s.rxRaw ++ [b] }
    · rw [rxTake_crc1_mismatch h hc, rxTake_crc1_mismatch (s := drained s) h hc]
      rfl

/-! ### A stream as its bytes -/

/-- One byte taken, with FRAME.READ issued again if it completed the read (42_frame.md R154). -/
def takeByte (s : State) (b : Byte) : State := { rxTake b s with rxArmed := true }

theorem takeByte_drained (b : Byte) (s : State) : takeByte (drained s) b = drained (takeByte s b) := by
  rw [takeByte, rxTake_drained]
  rfl

/-- FRAME.READ after a completion leaves the receiver armed, whether there was one or not (42_frame.md R143). -/
theorem rearm_eq (s : State) :
    (if s.rxArmed then .next s else exec .frameRead s) = .next { s with rxArmed := true } := by
  split
  · next ha => rw [← ha]
  · next ha => exact exec_frameRead_of_unarmed (Bool.eq_false_iff.mpr ha)

/-- The next thing the receiver does is to ask for a chunk (42_frame.md R149). -/
structure AwaitsChunk (s : State) : Prop where
  armed : s.rxArmed = true
  empty : s.inFifo = []
  idle : s.trRdPending = false

/-- From `s` the run `o` comes to an end, waiting for a chunk, with `bytes` taken one after another. -/
def TakesStream (bytes : List Byte) (s : State) (o : Host.Outcome State Fault Refusal) : Prop :=
  ∃ t, o = .next t ∧ AwaitsChunk t ∧ t.cfg = s.cfg ∧ drained t = bytes.foldl takeByte (drained s)

theorem takeQueued_takesStream {bytes : List Byte} {s : State} (ha : s.rxArmed = true) (hf : s.inFifo = bytes)
    (hp : s.trRdPending = false) : TakesStream bytes s (takeQueued bytes.length s) := by
  induction bytes generalizing s with
  | nil => exact ⟨s, rfl, ⟨ha, hf, hp⟩, rfl, rfl⟩
  | cons b bytes ih =>
    obtain ⟨hcfg, -, hfifo, hpend⟩ := rxTake_frame b { s with inFifo := bytes }
    obtain ⟨t, hrun, hwait, hcfg', hfold⟩ :=
      ih (s := takeByte { s with inFifo := bytes } b) rfl hfifo (hpend.trans hp)
    refine ⟨t, ?_, hwait, hcfg'.trans hcfg, ?_⟩
    · rw [List.length_cons, takeQueued, if_neg (by simp [hf]), exec_rxByte_cons ha hf]
      simp only [andThen, rearm_eq]
      exact hrun
    · rw [hfold, ← takeByte_drained]
      rfl

theorem feedChunk_takesStream {chunk : List Byte} {s : State} (h : AwaitsChunk s)
    (hl : chunk.length ≤ s.cfg.rxChunkMax) : TakesStream chunk s (feedChunk chunk s) := by
  have hanswer : exec (.trRdone chunk)
      { s with trRdPending := true, out := s.out ++ [.trReadReq s.cfg.rxChunkMax] } =
        .next { s with trRdPending := false, inFifo := chunk, out := s.out ++ [.trReadReq s.cfg.rxChunkMax] } :=
    exec_trRdone_of_pending rfl hl
  rw [feedChunk, exec_rxFetch_of_enabled h.armed h.empty h.idle, andThen, hanswer, andThen]
  obtain ⟨t, hrun, hwait, hcfg, hfold⟩ := takeQueued_takesStream (bytes := chunk)
    (s := { s with trRdPending := false, inFifo := chunk, out := s.out ++ [.trReadReq s.cfg.rxChunkMax] })
    h.armed rfl rfl
  refine ⟨t, hrun, hwait, hcfg, ?_⟩
  rw [hfold]
  congr 1
  simp [drained, unchunked, List.filter_append, isReadReq, h.idle]

/-- A cutting of a stream is taken to its end, as the stream's bytes. -/
theorem feedChunks_takesStream {cs : List (List Byte)} {s : State} (h : AwaitsChunk s) (hcs : chunksOk s.cfg cs) :
    TakesStream cs.flatten s (feedChunks cs s) := by
  induction cs generalizing s with
  | nil => exact ⟨s, rfl, h, rfl, rfl⟩
  | cons chunk cs ih =>
    obtain ⟨⟨-, hl⟩, hcs⟩ := List.forall_mem_cons.mp hcs
    obtain ⟨t, hrun, hwait, hcfg, hfold⟩ := feedChunk_takesStream h hl
    obtain ⟨u, hrun', hwait', hcfg', hfold'⟩ := ih hwait (by rwa [hcfg])
    refine ⟨u, ?_, hwait', hcfg'.trans hcfg, ?_⟩
    · rw [feedChunks, hrun]
      exact hrun'
    · rw [hfold', hfold, List.flatten_cons, List.foldl_append]

/-- Settles O30: either cutting ends in the fold over the stream's bytes. It does so in runs with a fault too. -/
theorem chunkBoundaryIndependence : Obligations.ChunkBoundaryIndependence := by
  intro s cs cs' ha hf hp hcs hcs' hcut
  obtain ⟨t, hrun, hwait, -, hfold⟩ := feedChunks_takesStream ⟨ha, hf, hp⟩ hcs
  obtain ⟨t', hrun', hwait', -, hfold'⟩ := feedChunks_takesStream ⟨ha, hf, hp⟩ hcs'
  refine ⟨t, t', hrun, hrun', fun _ => ?_⟩
  calc unchunked t
      _ = drained t := (drained_eq_unchunked hwait.empty).symm
      _ = drained t' := by rw [hfold, hfold', hcut]
      _ = unchunked t' := drained_eq_unchunked hwait'.empty

/-! ### A frame in a stream -/

theorem rxByteN_of_unarmed {s : State} (h : s.rxArmed = false) (n : Nat) : rxByteN n s = s := by
  cases n with
  | zero => rfl
  | succ n => rw [rxByteN, rxByteEnabled, h]; rfl

/-- As long as RX.BYTE leaves the receiver armed, no FRAME.READ is needed between the bytes. -/
theorem foldl_takeByte_of_armed {bytes rest : List Byte} {s : State} (hf : s.inFifo = bytes ++ rest)
    (ha : (rxByteN bytes.length s).rxArmed = true) :
    bytes.foldl takeByte (drained s) = drained (rxByteN bytes.length s) := by
  induction bytes generalizing s with
  | nil => rfl
  | cons b bytes ih =>
    cases hs : s.rxArmed with
    | false => rw [rxByteN_of_unarmed hs, hs] at ha; cases ha
    | true =>
      have hstep : rxByteN (bytes.length + 1) s =
          rxByteN bytes.length (rxTake b { s with inFifo := bytes ++ rest }) := by
        rw [Nat.add_comm, rxByteN_add, rxByteN_one (rest := bytes ++ rest) hs hf]
      rw [List.length_cons, hstep] at ha ⊢
      have harmed : (rxTake b { s with inFifo := bytes ++ rest }).rxArmed = true := by
        by_contra hoff
        rw [rxByteN_of_unarmed (Bool.eq_false_iff.mpr hoff)] at ha
        exact hoff ha
      obtain ⟨-, -, hfifo, -⟩ := rxTake_frame b { s with inFifo := bytes ++ rest }
      have htake : takeByte (drained s) b = drained (rxTake b { s with inFifo := bytes ++ rest }) := by
        refine (takeByte_drained b { s with inFifo := bytes ++ rest }).trans (congrArg drained ?_)
        rw [takeByte, ← harmed]
      rw [List.foldl_cons, htake]
      exact ih hfifo ha

/-- A frame with the right checksum, taken from a stream, is delivered at its last byte, and the receiver armed again
(42_frame.md R148, R154). -/
theorem foldl_takeByte_encodeFrame {s : State} {len p : List Byte} {rr : Bool} {src : BitVec 7} {dst : Byte}
    {crc : Word16} (ha : s.rxArmed = true) (hst : s.rxState = .hunt0)
    (hwf : (Instr.frame rr src dst len p crc).wf = true) (hp : p.length ≤ s.cfg.maxPayload)
    (hcrc : crc = crc16 ([0x54, 0xAB, flagByte rr src, dst] ++ len ++ p)) :
    (encodeFrame rr src dst len p crc).foldl takeByte (drained s) =
      { rxDeliver { holdingFrame (flagByte rr src) dst len p (crc.extractLsb' 0 8) (drained s) with
        rxRaw := encodeFrame rr src dst len p crc } with rxArmed := true } := by
  obtain ⟨hp32, hlen⟩ := wf_frame_iff.mp hwf
  have hbytes : encodeFrame rr src dst len p crc =
      ([0x54, 0xAB, flagByte rr src, dst] ++ len ++ p ++ [crc.extractLsb' 0 8]) ++ [crc.extractLsb' 8 8] := by
    simp [encodeFrame, le16]
  have hupto := takes_upto_last (flagByte rr src) dst (crc.extractLsb' 0 8) ha hst hlen hp32 hp
    [crc.extractLsb' 8 8]
  have hfold := foldl_takeByte_of_armed (s := { s with inFifo := _ ++ [crc.extractLsb' 8 8] }) rfl
    (by rw [hupto]; exact ha)
  rw [hupto] at hfold
  rw [← rxTakeCrc1_holdingFrame (drained s) hcrc, hbytes, List.foldl_append]
  refine (congrArg (List.foldl takeByte · _) hfold).trans ?_
  change takeByte (holdingFrame (flagByte rr src) dst len p (crc.extractLsb' 0 8) (drained s)) _ = _
  rw [takeByte, rxTake_crc1 _ _ rfl]

/-- That delivery's completion carries the frame's fields, is the only one, and is the last event. -/
theorem foldl_takeByte_delivers {s : State} {len p : List Byte} {rr : Bool} {src : BitVec 7} {dst : Byte}
    {crc : Word16} (ha : s.rxArmed = true) (hst : s.rxState = .hunt0)
    (hwf : (Instr.frame rr src dst len p crc).wf = true) (hp : p.length ≤ s.cfg.maxPayload)
    (hcrc : crc = crc16 ([0x54, 0xAB, flagByte rr src, dst] ++ len ++ p)) :
    ∃ es, ((encodeFrame rr src dst len p crc).foldl takeByte (drained s)).out = (drained s).out ++ es ++
        [.frameRdDone .ok (some
          { rr := rr, src := src, dst := dst, payload := p, forUs := isForUs s.cfg dst })] ∧
      (∀ e ∈ es, isFrameRdDone e = false) ∧
      ((encodeFrame rr src dst len p crc).foldl takeByte (drained s)).rxState = .hunt0 := by
  rw [foldl_takeByte_encodeFrame ha hst hwf hp hcrc]
  obtain ⟨es, hes, honce⟩ := rxDeliver_out_once
    { holdingFrame (flagByte rr src) dst len p (crc.extractLsb' 0 8) (drained s) with
      rxRaw := encodeFrame rr src dst len p crc }
  refine ⟨es, hes.trans ?_, honce, (rxDeliver_resynced _).hunting⟩
  rw [holdingFrame, msb_flagByte, setWidth_flagByte]
  rfl

/-- Settles O31: the serializer's bytes are a frame with the right checksum, and their fold does not depend on the
cutting. -/
theorem roundTripInAnyChunking : Obligations.RoundTripInAnyChunking := by
  intro rr src dst p cs s hlegal hrr hsrc _ hp ha hst hf hpend hcs hcut
  obtain ⟨-, hmax, -⟩ := hlegal
  have hwf : (Instr.frame (decide (rr = 1)) (src.setWidth 7) (dst.setWidth 8) (vuEnc (BitVec.ofNat 32 p.length)) p
      (crc16 (frameBody rr src dst p))).wf = true :=
    wf_frame_iff.mpr ⟨hp.trans_lt hmax, vuEnc_spells _⟩
  obtain ⟨t, hrun, hwait, -, hfold⟩ := feedChunks_takesStream ⟨ha, hf, hpend⟩ hcs
  obtain ⟨es, hout, honce, hstate⟩ :=
    foldl_takeByte_delivers ha hst hwf hp (congrArg crc16 (frameBody_eq dst p hrr hsrc))
  rw [← frameBytes_eq_encodeFrame dst p hrr hsrc, ← hcut, ← hfold] at hout hstate
  exact ⟨t, hrun, fun _ => ⟨es, hout, honce, hstate, hwait.empty⟩⟩

end Sys2Proof.Machine
end

section
/-! A payload as the list of its subframes (43_demux.md R182, R187): the walk is the rows of that list, one after
another, and the list is the encodings that the payload was put together from. What a register row does follows
(R184). -/

namespace Sys2Proof.Machine

/-! ### The walk as the rows of its subframes -/

/-- The rows of some subframes, one after another. -/
def handleSubframes (subs : List Subframe) (s : State) : State := subs.foldl (flip handleSubframe) s

theorem handleSubframes_cons (sub : Subframe) (subs : List Subframe) (s : State) :
    handleSubframes (sub :: subs) s = handleSubframes subs (handleSubframe sub s) := rfl

/-- What every row keeps, the rows one after another keep. -/
theorem handleSubframes_induction {P : State → Prop} {subs : List Subframe} {s : State} (hs : P s)
    (hrow : ∀ t, P t → ∀ sub ∈ subs, P (handleSubframe sub t)) : P (handleSubframes subs s) :=
  subs.foldlRecOn _ hs hrow

theorem walkFrom_eq_handleSubframes (n : Nat) (p : List Byte) (s : State) :
    walkFrom n p s = handleSubframes (subframesFrom n p) s := by
  induction n generalizing p s with
  | zero => rfl
  | succ n ih =>
    rw [walkFrom, subframesFrom]
    split
    · next hp => subst hp; rfl
    · cases parseSubframe p with
      | ok sub rest => exact ih rest (handleSubframe sub s)
      | err => rfl

/-- The walk is the rows of the subframes that it delimits, left to right (43_demux.md R182). -/
theorem walk_eq_handleSubframes (p : List Byte) (s : State) : walk p s = handleSubframes (subframes p) s :=
  walkFrom_eq_handleSubframes p.length p s

/-- A subframe's row of the opcode table means what the walk does with the subframe (log 8). -/
theorem exec_ofSubframe (sub : Subframe) (s : State) :
    exec (Instr.ofSubframe sub) s = .next (handleSubframe sub s) := by
  cases sub <;> rfl

theorem execList_ofSubframe (subs : List Subframe) (s : State) :
    execList (subs.map Instr.ofSubframe) s = .next (handleSubframes subs s) := by
  induction subs generalizing s with
  | nil => rfl
  | cons sub subs ih => simp only [List.map_cons, execList, exec_ofSubframe, ih, handleSubframes_cons]

/-! ### The subframes of a payload -/

theorem subframesFrom_of_err {p : List Byte} {e : DecodeError} (h : parseSubframe p = .err e) (n : Nat) :
    subframesFrom n p = [] := by
  cases n with
  | zero => rfl
  | succ n => rw [subframesFrom, h]

/-- An encoding has a tag, so one round of the walk is one byte at least. -/
theorem Spells.length_pos {sub : Subframe} {bytes : List Byte} (h : Spells sub bytes) : 0 < bytes.length := by
  cases bytes with
  | nil => cases h.parse_append []
  | cons => exact Nat.succ_pos _

/-- One round delimits the encoding at the head. -/
theorem subframesFrom_spells {sub : Subframe} {bytes : List Byte} (h : Spells sub bytes) (n : Nat) (rest : List Byte) :
    subframesFrom (n + 1) (bytes ++ rest) = sub :: subframesFrom n rest := by
  rw [subframesFrom, h.parse_append]

/-- Encodings and then bytes that open no subframe: as many rounds as there are bytes delimit the encoded subframes, and
stop (43_demux.md R187). -/
theorem subframesFrom_flatten {parts : List (Subframe × List Byte)} {junk : List Byte} {e : DecodeError}
    (hparts : ∀ part ∈ parts, Spells part.1 part.2) (hjunk : parseSubframe junk = .err e) {n : Nat}
    (hn : ((parts.map Prod.snd).flatten ++ junk).length ≤ n) :
    subframesFrom n ((parts.map Prod.snd).flatten ++ junk) = parts.map Prod.fst := by
  induction parts generalizing n with
  | nil => exact subframesFrom_of_err hjunk n
  | cons part parts ih =>
    obtain ⟨hpart, hrest⟩ := List.forall_mem_cons.mp hparts
    have hpos := hpart.length_pos
    simp only [List.map_cons, List.flatten_cons, List.append_assoc] at hn ⊢
    rw [List.length_append] at hn
    obtain ⟨m, rfl⟩ : ∃ m, n = m + 1 := Nat.exists_eq_add_one.mpr (by omega)
    rw [subframesFrom_spells hpart, ih hrest (by omega)]

/-- Settles O34: the walk is the rows of its subframes, and these are the encoded ones, by induction on the
encodings. -/
theorem walkHandlesSubframesInOrderAndStops : Obligations.WalkHandlesSubframesInOrderAndStops := by
  refine ⟨fun p s => ?_, fun parts junk hparts ⟨e, he⟩ => subframesFrom_flatten hparts he le_rfl, fun _ =>
    encodeSubframe_spells⟩
  rw [execList_ofSubframe, walk_eq_handleSubframes]

/-! ### Register subframes -/

/-- A `DISPATCH` event and nothing else, its tag the sum of the group's base and the type index (30_encoding.md R76). -/
theorem emit_dispatch_typed {base : Byte} (h : base &&& 0x03 = 0) (t : TypeIndex) (reg count : Word32) (d : List Byte)
    (s : State) :
    emit (.dispatch (base ||| typeBits t) reg count d) s =
      { s with out := s.out ++ [.dispatch (base + typeBits t) reg count d] } := by
  rw [or_typeBits h]
  rfl

/-- Settles O33: each register row emits its `DISPATCH`. -/
theorem registerSubframesAreDispatched : Obligations.RegisterSubframesAreDispatched := by
  refine ⟨fun t reg v s => ⟨?writeSingle, ?replySingle, ?readSingle⟩,
    fun t start count v s => ⟨?writeMultiple, ?readMultiple⟩, fun _ _ _ => rfl, rfl, rfl, rfl, rfl⟩
  all_goals exact congrArg Host.Outcome.next (emit_dispatch_typed rfl t _ _ _ s)

end Sys2Proof.Machine
end

section
/-! TunnelData (43_demux.md R185, R186, R189): in which direction the block receives, what it does with the data of a
channel that has a slot, and that it writes no other channel's slot. -/

namespace Sys2Proof.Machine

/-! ### The direction that the block receives -/

theorem handleSubframe_tunnelC2s (ch : Word32) (d : List Byte) (s : State) :
    handleSubframe (.tunnelC2s ch d) s = if s.cfg.role = .server then tunnelRx ch d s else s := by
  rw [handleSubframe, handleTunnel, rxTag]
  cases s.cfg.role <;> simp

theorem handleSubframe_tunnelS2c (ch : Word32) (d : List Byte) (s : State) :
    handleSubframe (.tunnelS2c ch d) s = if s.cfg.role = .client then tunnelRx ch d s else s := by
  rw [handleSubframe, handleTunnel, rxTag]
  cases s.cfg.role <;> simp

/-! ### Data for a channel that has a slot -/

theorem tunnelRx_of_findSlot {ch : Word32} {i : Nat} {s : State} (h : findSlot ch s = some i) (d : List Byte) :
    tunnelRx ch d s = tunnelRxSlot i ch d s := by
  simp only [tunnelRx, slotLookup, h]

/-- `queue_in` as one write of the slot and the fault register (44_channel.md R212). -/
theorem queueIn_eq (i : Nat) (d : List Byte) (s : State) :
    queueIn i d s = { s with
      slots := s.slots.set i
        { slotAt s i with q := (slotAt s i).q ++ d.take (s.cfg.queueCap - (slotAt s i).q.length) }
      fault := if s.cfg.queueCap - (slotAt s i).q.length < d.length ∧ s.cfg.overflowPolicy = .fatal
        then s.fault ||| 0x20 else s.fault } := by
  have hfault : (queueIn i d s).fault =
      if s.cfg.queueCap - (slotAt s i).q.length < d.length ∧ s.cfg.overflowPolicy = .fatal
        then s.fault ||| 0x20 else s.fault := by
    rw [queueIn_fault, raiseIfFatal_fault, ite_and]
    rfl
  have hout : (queueIn i d s).out = s.out := by
    unfold queueIn
    simp only [setSlot_out]
    split <;> simp
  rw [queueIn_slotsFaultOut i d s, queueIn_slots, hfault, hout]

/-- Nothing queued is nothing written. -/
theorem queueIn_nil {i : Nat} {s : State} (hi : i < s.slots.length) : queueIn i [] s = s := by
  have hsame : s.slots.set i { slotAt s i with q := (slotAt s i).q } = s.slots := by
    rw [slotAt_eq_getElem hi]
    exact List.set_getElem_self hi
  simp [queueIn_eq, hsame]

/-- A parked read completes, and what it leaves, if anything, is queued (43_demux.md R186). -/
theorem tunnelRxSlot_of_parked {i k : Nat} {d : List Byte} {s : State} (hi : i < s.slots.length) (hd : d ≠ [])
    (hp : (slotAt s i).prd = true) (hk : k = min d.length (slotAt s i).prdCap.toNat) (ch : Word32) :
    tunnelRxSlot i ch d s =
      queueIn i (d.drop k)
        (emit (.chRdDone ch .ok (d.take k)) (setSlot i { slotAt s i with prd := false, prdCap := 0 } s)) := by
  simp only [tunnelRxSlot, hd, hp, if_true, if_false, ← hk]
  split
  · next hnil => rw [hnil, queueIn_nil (by simpa using hi)]
  · rfl

/-- Settles O36: the row is `tunnel_rx` in one direction and nothing in the other. -/
theorem tunnelDataReachesItsChannel : Obligations.TunnelDataReachesItsChannel := by
  refine ⟨fun mk ch d i s hmk hf => ?_, fun ch d s => ⟨fun hr => ?_, fun hr => ?_⟩⟩
  · have hi := (findSlot_some hf).1
    have hexec : exec (mk ch d) s = .next (tunnelRxSlot i ch d s) := by
      rw [← tunnelRx_of_findSlot hf]
      obtain ⟨rfl, hr⟩ | ⟨rfl, hr⟩ := hmk
      · exact congrArg Host.Outcome.next ((handleSubframe_tunnelC2s ch d s).trans (if_pos hr))
      · exact congrArg Host.Outcome.next ((handleSubframe_tunnelS2c ch d s).trans (if_pos hr))
    rw [hexec]
    refine ⟨fun hd => ?empty, fun hd hp => ?queued, fun hd hp => ⟨_, rfl, ?parked⟩⟩
    case empty => rw [tunnelRxSlot, if_pos hd]
    case queued => rw [tunnelRxSlot, if_neg hd, if_neg (by simp [hp]), queueIn_eq]
    case parked =>
      rw [tunnelRxSlot_of_parked hi hd hp rfl, queueIn_eq, slotAt_emit, slotAt_setSlot _ _ _ _ hi, if_pos rfl]
      simp only [emit, setSlot, List.set_set]
      rfl
  · exact congrArg Host.Outcome.next ((handleSubframe_tunnelS2c ch d s).trans (if_neg (by rw [hr]; nofun)))
  · exact congrArg Host.Outcome.next ((handleSubframe_tunnelC2s ch d s).trans (if_neg (by rw [hr]; nofun)))

/-! ### The slots of other channels -/

theorem tunnelRxSlot_getElem?_ne {i j : Nat} (hij : i ≠ j) (ch : Word32) (d : List Byte) (s : State) :
    (tunnelRxSlot i ch d s).slots[j]? = s.slots[j]? := by
  unfold tunnelRxSlot
  split
  · rfl
  split
  · dsimp only
    split <;> simp [queueIn_slots, List.getElem?_set_ne hij]
  · rw [queueIn_slots, List.getElem?_set_ne hij]

/-- `tunnel_rx` writes the slot of its own channel, or one that no channel uses (44_channel.md R210). -/
theorem tunnelRx_getElem?_of_id_ne {j : Nat} {sl : Slot} {ch : Word32} {s : State} (hsl : s.slots[j]? = some sl)
    (hu : sl.used = true) (hid : sl.id ≠ ch) (d : List Byte) : (tunnelRx ch d s).slots[j]? = some sl := by
  have hat : slotAt s j = sl := by simp [slotAt_eq, hsl]
  unfold tunnelRx
  obtain ⟨i, hf, hl⟩ | ⟨-, -, i, hg, hl⟩ | ⟨-, -, hl⟩ := slotLookup_cases ch true s <;> rw [hl]
  · obtain ⟨-, -, hch⟩ := findSlot_some hf
    have hij : i ≠ j := fun hij => hid (by rw [← hat, ← hij, hch])
    exact (tunnelRxSlot_getElem?_ne hij ch d s).trans hsl
  · obtain ⟨-, hfree⟩ := freeSlot_some hg
    have hij : i ≠ j := by
      rintro rfl
      rw [hat, hu] at hfree
      cases hfree
    exact (tunnelRxSlot_getElem?_ne hij ch d _).trans ((List.getElem?_set_ne hij).trans hsl)
  · simpa [slotExhausted] using hsl

/-- The subframe brings no data to channel `ch` in the direction that the block receives (43_demux.md R185). -/
abbrev BringsNothing (c : Config) (ch : Word32) (sub : Subframe) : Prop :=
  (∀ d, c.role = .server → sub ≠ .tunnelC2s ch d) ∧ ∀ d, c.role = .client → sub ≠ .tunnelS2c ch d

theorem handleSubframe_getElem?_of_bringsNothing {j : Nat} {sl : Slot} {sub : Subframe} {s : State}
    (hsl : s.slots[j]? = some sl) (hu : sl.used = true) (hsub : BringsNothing s.cfg sl.id sub) :
    (handleSubframe sub s).slots[j]? = some sl := by
  cases sub with
  | tunnelC2s ch d =>
    rw [handleSubframe_tunnelC2s]
    split
    · next hr => exact tunnelRx_getElem?_of_id_ne hsl hu (fun hid => hsub.1 d hr (hid ▸ rfl)) d
    · exact hsl
  | tunnelS2c ch d =>
    rw [handleSubframe_tunnelS2c]
    split
    · next hr => exact tunnelRx_getElem?_of_id_ne hsl hu (fun hid => hsub.2 d hr (hid ▸ rfl)) d
    · exact hsl
  | _ => exact hsl

/-- Rows that bring nothing to the slot's channel, one after another, leave the configuration and the slot. -/
theorem handleSubframes_getElem?_of_bringsNothing {j : Nat} {sl : Slot} {subs : List Subframe} {s : State}
    (hsl : s.slots[j]? = some sl) (hu : sl.used = true) (hsubs : ∀ sub ∈ subs, BringsNothing s.cfg sl.id sub) :
    (handleSubframes subs s).cfg = s.cfg ∧ (handleSubframes subs s).slots[j]? = some sl :=
  handleSubframes_induction (P := fun t => t.cfg = s.cfg ∧ t.slots[j]? = some sl) ⟨rfl, hsl⟩
    fun t ⟨hc, ht⟩ sub hm =>
      ⟨(handleSubframe_extends sub t).cfg_eq.trans hc,
        handleSubframe_getElem?_of_bringsNothing ht hu (hc ▸ hsubs sub hm)⟩

/-- Settles O37: no row of the payload's subframes writes the slot. -/
theorem otherChannelsAreNotTouched : Obligations.OtherChannelsAreNotTouched := by
  intro p s j sl hsl hu hsubs
  rw [walk_eq_handleSubframes]
  exact (handleSubframes_getElem?_of_bringsNothing hsl hu hsubs).2

end Sys2Proof.Machine
end

section
/-! A channel's slot (44_channel.md R210, R211): how a channel comes to have one, what a write of a slot changes of it,
and what CH.READ, CH.WRITE and incoming data do with it (R213, R214; 43_demux.md R186). -/

namespace Sys2Proof.Machine

/-! ### `slot_lookup` -/

/-- The state after channel `ch` has claimed slot `i` (44_channel.md R210). -/
def claimSlot (i : Nat) (ch : Word32) (s : State) : State := setSlot i { slotAt s i with used := true, id := ch } s

theorem slotLookup_of_findSlot {ch : Word32} {i : Nat} {s : State} (h : findSlot ch s = some i) (create : Bool) :
    slotLookup ch create s = (some i, s) := by
  simp only [slotLookup, h]

theorem slotLookup_of_freeSlot {ch : Word32} {i : Nat} {s : State} (h : findSlot ch s = none)
    (hfree : freeSlot s = some i) : slotLookup ch true s = (some i, claimSlot i ch s) := by
  simp only [slotLookup, h, hfree, if_true, claimSlot]

theorem slotLookup_of_none {ch : Word32} {s : State} (h : findSlot ch s = none) (hfree : freeSlot s = none) :
    slotLookup ch true s = (none, s) := by
  simp only [slotLookup, h, hfree, if_true]

theorem slotLookup_create_false {ch : Word32} {s : State} (h : findSlot ch s = none) :
    slotLookup ch false s = (none, s) := by
  simp [slotLookup, h]

/-! ### Writes of a slot -/

/-- Whether channel `k` finds a slot, and which, is not changed by a write that leaves the slot to its owner. -/
theorem findSlot_setSlot_of_iff {k : Word32} {i : Nat} {sl : Slot} {s : State}
    (h : sl.used = true ∧ sl.id = k ↔ (slotAt s i).used = true ∧ (slotAt s i).id = k) :
    findSlot k (setSlot i sl s) = findSlot k s := by
  have howner : (sl.used && sl.id == k) = ((slotAt s i).used && (slotAt s i).id == k) := by
    rw [Bool.eq_iff_iff]
    simpa using h
  by_cases hi : i < s.slots.length
  · have hmap : (s.slots.set i sl).map (fun sl => sl.used && sl.id == k) =
        s.slots.map fun sl => sl.used && sl.id == k := by
      rw [List.map_set, howner, slotAt_eq_getElem hi, ← List.map_set, List.set_getElem_self]
    have hfind := congrArg (List.findIdx? id) hmap
    rw [List.findIdx?_map, List.findIdx?_map] at hfind
    exact hfind
  · rw [findSlot, setSlot_slots, List.set_eq_of_length_le (Nat.not_lt.mp hi), findSlot]

/-- A channel with no slot that claims the least free one has that one (44_channel.md R210). -/
theorem findSlot_claimSlot {ch : Word32} {i : Nat} {s : State} (h : findSlot ch s = none) (hi : i < s.slots.length) :
    findSlot ch (claimSlot i ch s) = some i := by
  refine List.findIdx?_eq_some_iff_getElem.mpr ⟨by simpa [claimSlot] using hi, by simp [claimSlot], fun j hj => ?_⟩
  have hp := List.findIdx?_eq_none_iff.mp h _ (List.getElem_mem (hj.trans hi))
  simpa [claimSlot, List.getElem_set, hj.ne'] using hp

/-- All slots before the least free one are used. -/
theorem used_of_lt_freeSlot {i j : Nat} {s : State} (h : freeSlot s = some i) (hj : j < i) :
    (slotAt s j).used = true := by
  obtain ⟨hi, -, hbefore⟩ := List.findIdx?_eq_some_iff_getElem.mp h
  rw [slotAt_eq_getElem (hj.trans hi)]
  simpa using hbefore j hj

/-! ### The channel operations by what `slot_lookup` answers -/

section
variable {ch : Word32} {i : Nat} {s s' : State}

theorem exec_chRead_of_slot (h : slotLookup ch true s = (some i, s')) (cap : Word32) :
    exec (.chRead ch cap) s = .next (chReadSlot i ch cap s') := by
  simp only [exec, execChRead, h]

theorem exec_chRead_of_noSlot (h : slotLookup ch true s = (none, s')) (cap : Word32) :
    exec (.chRead ch cap) s = .next (emit (.chRdDone ch .errNoSlot []) (slotExhausted s')) := by
  simp only [exec, execChRead, h]

theorem exec_chWrite_of_slot (h : slotLookup ch true s = (some i, s')) (data : List Byte) :
    exec (.chWrite ch data) s = .next (chWriteSlot i ch data s') := by
  simp only [exec, execChWrite, h]

theorem exec_chWrite_of_noSlot (h : slotLookup ch true s = (none, s')) (data : List Byte) :
    exec (.chWrite ch data) s = .next (emit (.chWrDone ch .errNoSlot 0) (slotExhausted s')) := by
  simp only [exec, execChWrite, h]

theorem exec_tunnelEmit_of_slot (h : slotLookup ch false s = (some i, s')) (space : Word32) :
    exec (.tunnelEmit ch space) s = .next (tunnelEmitSlot i ch space s') := by
  simp only [exec, execTunnelEmit, h]

theorem exec_tunnelEmit_of_noSlot (h : slotLookup ch false s = (none, s')) (space : Word32) :
    exec (.tunnelEmit ch space) s = .next (emit (.emitData ch []) s') := by
  simp only [exec, execTunnelEmit, h]

theorem tunnelRx_of_slot (h : slotLookup ch true s = (some i, s')) (d : List Byte) :
    tunnelRx ch d s = tunnelRxSlot i ch d s' := by
  simp only [tunnelRx, h]

theorem tunnelRx_of_noSlot (h : slotLookup ch true s = (none, s')) (d : List Byte) :
    tunnelRx ch d s = slotExhausted s' := by
  simp only [tunnelRx, h]

end

/-- On the server the client's TunnelData is received, on the client the server's (43_demux.md R185). -/
theorem exec_tunnelC2s_of_server {s : State} (hr : s.cfg.role = .server) (ch : Word32) (d : List Byte) :
    exec (.tunnelC2s ch d) s = .next (tunnelRx ch d s) :=
  congrArg Host.Outcome.next ((handleSubframe_tunnelC2s ch d s).trans (if_pos hr))

theorem exec_tunnelS2c_of_client {s : State} (hr : s.cfg.role = .client) (ch : Word32) (d : List Byte) :
    exec (.tunnelS2c ch d) s = .next (tunnelRx ch d s) :=
  congrArg Host.Outcome.next ((handleSubframe_tunnelS2c ch d s).trans (if_pos hr))

/-! ### A channel that has a slot -/

/-- Settles O40: CH.READ on the channel's slot, check by check. -/
theorem chReadCases : Obligations.ChReadCases := by
  intro ch cap i s h
  rw [exec_chRead_of_slot (slotLookup_of_findSlot h true), chReadSlot]
  refine ⟨fun hp => ?busy, fun hp hcap => ?empty, fun hp hcap hq => ?served, fun hp hcap hq => ?parked⟩
  case busy => rw [if_pos hp]; rfl
  case empty => rw [if_neg (by simp [hp]), if_pos hcap]; rfl
  case served => rw [if_neg (by simp [hp]), if_neg hcap, if_pos hq]; rfl
  case parked => rw [if_neg (by simp [hp]), if_neg hcap, if_neg (not_not.mpr hq)]; rfl

/-- Settles O41: CH.WRITE on the channel's slot, check by check. -/
theorem chWriteCases : Obligations.ChWriteCases := by
  intro ch data i s h
  rw [exec_chWrite_of_slot (slotLookup_of_findSlot h true), chWriteSlot]
  refine ⟨fun hp => ?busy, fun hp hd => ?empty, fun hp hd => ?parked⟩
  case busy => rw [if_pos hp]; rfl
  case empty => rw [if_neg (by simp [hp]), if_pos hd]; rfl
  case parked => rw [if_neg (by simp [hp]), if_neg hd]; rfl

/-! ### A channel that has no slot -/

/-- Settles O44: after the claim `slot_lookup` answers as before it, and the operations look at its answer only. -/
theorem firstReferenceClaimsTheLeastFreeSlot : Obligations.FirstReferenceClaimsTheLeastFreeSlot := by
  intro ch cap d i s hf hg
  have hi := (freeSlot_some hg).1
  have hfind := findSlot_claimSlot hf hi
  have hs := slotLookup_of_freeSlot hf hg
  have ht := slotLookup_of_findSlot hfind true
  refine ⟨claimSlot i ch s, rfl, hi, fun j hj => used_of_lt_freeSlot hg hj, hfind, ?_, ?_, fun hr => ?_, fun hr => ?_⟩
  · rw [exec_chRead_of_slot hs, exec_chRead_of_slot ht]
  · rw [exec_chWrite_of_slot hs, exec_chWrite_of_slot ht]
  · rw [exec_tunnelC2s_of_server hr, exec_tunnelC2s_of_server (by exact hr), tunnelRx_of_slot hs, tunnelRx_of_slot ht]
  · rw [exec_tunnelS2c_of_client hr, exec_tunnelS2c_of_client (by exact hr), tunnelRx_of_slot hs, tunnelRx_of_slot ht]

/-- `slot_exhausted()` writes the fault register only, under FATAL (44_channel.md R211). -/
theorem slotExhausted_eq (s : State) :
    slotExhausted s = { s with fault := if s.cfg.overflowPolicy = .fatal then s.fault ||| 0x40 else s.fault } := by
  unfold slotExhausted raiseIfFatal
  split <;> rfl

/-- Settles O45: with no slot for the channel and none free, `slot_lookup` answers none. -/
theorem noSlotLeft : Obligations.NoSlotLeft := by
  rintro ch cap d s f hf hg rfl
  have hl := slotLookup_of_none hf hg
  refine ⟨?_, ?_, fun hr => ?_, fun hr => ?_⟩
  · rw [exec_chRead_of_noSlot hl, slotExhausted_eq]; rfl
  · rw [exec_chWrite_of_noSlot hl, slotExhausted_eq]; rfl
  · rw [exec_tunnelC2s_of_server hr, tunnelRx_of_noSlot hl, slotExhausted_eq]
  · rw [exec_tunnelS2c_of_client hr, tunnelRx_of_noSlot hl, slotExhausted_eq]

end Sys2Proof.Machine
end

section
/-! TUNNEL.EMIT (44_channel.md R215, R216): how many bytes its subframe takes, what it does to the channel's pending
write, and who reads the bytes. -/

namespace Sys2Proof.Machine

/-! ### `emit_size` -/

/-- `n` bytes fit: the tag, the two varuints and the bytes are within `space` (44_channel.md R216). -/
abbrev SubframeFits (ch : Word32) (space n : Nat) : Prop := 1 + vuLen ch.toNat + vuLen n + n ≤ space

theorem emitSize_succ_of_fits {ch : Word32} {m space : Nat} (h : SubframeFits ch space (m + 1)) :
    emitSize ch (m + 1) space = m + 1 := if_pos h

theorem emitSize_succ_of_not_fits {ch : Word32} {m space : Nat} (h : ¬ SubframeFits ch space (m + 1)) :
    emitSize ch (m + 1) space = emitSize ch m space := if_neg h

theorem emitSize_le (ch : Word32) (m space : Nat) : emitSize ch m space ≤ m := by
  induction m with
  | zero => exact le_rfl
  | succ m ih =>
    by_cases hfit : SubframeFits ch space (m + 1)
    · rw [emitSize_succ_of_fits hfit]
    · rw [emitSize_succ_of_not_fits hfit]
      exact Nat.le_succ_of_le ih

/-- The count that `emit_size` answers fits, unless it is 0. -/
theorem emitSize_fits (ch : Word32) (m space : Nat) :
    SubframeFits ch space (emitSize ch m space) ∨ emitSize ch m space = 0 := by
  induction m with
  | zero => exact .inr rfl
  | succ m ih =>
    by_cases hfit : SubframeFits ch space (m + 1)
    · rw [emitSize_succ_of_fits hfit]
      exact .inl hfit
    · rwa [emitSize_succ_of_not_fits hfit]

/-- No larger count within the bound fits. -/
theorem le_emitSize {ch : Word32} {m n space : Nat} (hn : n ≤ m) (h : SubframeFits ch space n) :
    n ≤ emitSize ch m space := by
  induction m with
  | zero => exact hn
  | succ m ih =>
    by_cases hfit : SubframeFits ch space (m + 1)
    · rwa [emitSize_succ_of_fits hfit]
    · rw [emitSize_succ_of_not_fits hfit]
      have hne : n ≠ m + 1 := fun he => hfit (he ▸ h)
      exact ih (by omega)

/-- Settles O43: by induction on the bound, and the rule's values. -/
theorem emitSizeIsTheLargest : Obligations.EmitSizeIsTheLargest :=
  ⟨fun ch m space => ⟨emitSize_le ch m space, emitSize_fits ch m space, fun _ hn h => le_emitSize hn h⟩,
    by decide, by decide, by decide, by decide, by decide⟩

/-! ### TUNNEL.EMIT -/

/-- With nothing pending or no room TUNNEL.EMIT answers with no bytes (44_channel.md R215). -/
theorem tunnelEmitSlot_of_nothing {i : Nat} {ch space : Word32} {s : State}
    (h : (slotAt s i).pwr = false ∨ emitSize ch (slotAt s i).pwrData.length space.toNat = 0) :
    tunnelEmitSlot i ch space s = emit (.emitData ch []) s := by
  unfold tunnelEmitSlot
  split
  · rfl
  · next hp => exact if_pos (h.resolve_left hp)

/-- Otherwise it emits one subframe, and then the write's completion (44_channel.md R215). -/
theorem tunnelEmitSlot_of_room {i n : Nat} {ch space : Word32} {s : State} (hp : (slotAt s i).pwr = true)
    (hn : n = emitSize ch (slotAt s i).pwrData.length space.toNat) (h0 : n ≠ 0) :
    tunnelEmitSlot i ch space s =
      emit (.chWrDone ch .ok n)
        (emit (.emitData ch (emitSub s.cfg ch ((slotAt s i).pwrData.take n)))
          (setSlot i { slotAt s i with pwr := false, pwrData := [] } s)) := by
  subst hn
  unfold tunnelEmitSlot
  rw [if_neg (by simp [hp])]
  exact if_neg h0

/-- Settles O42: TUNNEL.EMIT with no slot, with nothing to emit, and with a subframe to emit. -/
theorem tunnelEmitCases : Obligations.TunnelEmitCases := by
  intro ch space s
  refine ⟨fun hf => exec_tunnelEmit_of_noSlot (slotLookup_create_false hf) space, fun i hf => ?_⟩
  rw [exec_tunnelEmit_of_slot (slotLookup_of_findSlot hf false)]
  refine ⟨fun h => congrArg Host.Outcome.next (tunnelEmitSlot_of_nothing h), fun n hp hn h0 => ?_⟩
  have hlen : ((slotAt s i).pwrData.take n).length = n := by
    rw [List.length_take, Nat.min_eq_left (hn ▸ emitSize_le ch _ _)]
  rw [tunnelEmitSlot_of_room hp hn h0, emitSub, hlen, txTag]
  simp [emit, setSlot]

/-! ### The peer -/

/-- The TunnelData subframe that a block of configuration `c` sends: the client's from the client, the server's from the
server (00_scope.md R15). -/
def sentSubframe (c : Config) (ch : Word32) (d : List Byte) : Subframe :=
  if c.role = .server then .tunnelS2c ch d else .tunnelC2s ch d

/-- TUNNEL.EMIT's bytes are the encoding of that subframe (44_channel.md R215, 30_encoding.md R84). -/
theorem emitSub_eq_encodeSubframe (c : Config) (ch : Word32) (d : List Byte) :
    emitSub c ch d = encodeSubframe (sentSubframe c ch d) := by
  cases h : c.role <;> simp [emitSub, txTag, sentSubframe, encodeSubframe, tagByte, h]

theorem sentSubframe_wf {d : List Byte} (h : fits32 d) (c : Config) (ch : Word32) :
    (sentSubframe c ch d).wf = true := by
  cases hr : c.role <;> simpa [sentSubframe, hr, Subframe.wf] using h

/-- A block receives what blocks of the other role send, and skips what its own role sends (43_demux.md R185). -/
theorem subframeBytes_sentSubframe (c c' : Config) (ch : Word32) (d : List Byte) :
    subframeBytes c' ch (sentSubframe c ch d) = if c'.role = c.role then [] else d := by
  cases h : c.role <;> cases h' : c'.role <;> simp [sentSubframe, subframeBytes, rxTag, h, h']

/-- Settles O39: the emitted bytes are one subframe's encoding, which parses whole, whatever follows it. -/
theorem emittedSubframeReachesThePeer : Obligations.EmittedSubframeReachesThePeer := by
  intro c c' ch d rest hd
  have hspells := encodeSubframe_spells (sentSubframe_wf hd c ch)
  have hbytes := subframeBytes_sentSubframe c c' ch d
  refine ⟨sentSubframe c ch d, ?_, fun hne => hbytes.trans (if_neg hne), fun he => hbytes.trans (if_pos he)⟩
  rw [emitSub_eq_encodeSubframe]
  exact hspells.parse_append rest

end Sys2Proof.Machine
end

section
/-! What each operation of the block does to the bytes of a channel (44_channel.md R217): the reads hand on what was
queued, incoming data is added at the end as long as it fits, and nothing else touches them. -/

namespace Sys2Proof.Machine

/-! ### The bytes handed to the reader and the bytes queued -/

/-- The bytes that the reader of channel `ch` has got. -/
def handedBytes (ch : Word32) (s : State) : List Byte := (s.out.map (readBytes ch)).flatten

theorem channelBytes_of_findSlot {ch : Word32} {i : Nat} {s : State} (h : findSlot ch s = some i) :
    channelBytes ch s = handedBytes ch s ++ (slotAt s i).q := by
  simp only [channelBytes, h, handedBytes]

theorem channelBytes_of_none {ch : Word32} {s : State} (h : findSlot ch s = none) :
    channelBytes ch s = handedBytes ch s := by
  simp only [channelBytes, h, handedBytes, List.append_nil]

@[simp] theorem handedBytes_emit (ch : Word32) (e : Event) (s : State) :
    handedBytes ch (emit e s) = handedBytes ch s ++ readBytes ch e := by
  simp [handedBytes]

@[simp] theorem handedBytes_setSlot (ch : Word32) (i : Nat) (sl : Slot) (s : State) :
    handedBytes ch (setSlot i sl s) = handedBytes ch s := rfl

/-- An event that hands channel `ch` no bytes does not show in them. -/
theorem channelBytes_emit {ch : Word32} {e : Event} (he : readBytes ch e = []) (s : State) :
    channelBytes ch (emit e s) = channelBytes ch s := by
  simp only [channelBytes, emit_out, List.map_append, List.flatten_append, List.map_cons, List.map_nil, he,
    List.flatten_cons, List.flatten_nil, List.append_nil, findSlot_emit, slotAt_emit]

/-! ### Changes that no channel sees -/

/-- `t` has the arena of `s`, and its readers have got what those of `s` have. -/
structure ChannelsKept (s t : State) : Prop where
  slots_eq : t.slots = s.slots := by rfl
  handed_eq : ∀ ch, handedBytes ch t = handedBytes ch s := by intro _; rfl

theorem ChannelsKept.refl (s : State) : ChannelsKept s s where

theorem ChannelsKept.trans {s t u : State} (h : ChannelsKept s t) (k : ChannelsKept t u) : ChannelsKept s u :=
  ⟨k.slots_eq.trans h.slots_eq, fun ch => (k.handed_eq ch).trans (h.handed_eq ch)⟩

theorem ChannelsKept.emit {s t : State} (h : ChannelsKept s t) (e : Event)
    (he : ∀ ch, readBytes ch e = [] := by intro _; rfl) : ChannelsKept s (emit e t) :=
  ⟨h.slots_eq, fun ch => by rw [handedBytes_emit, he, List.append_nil, h.handed_eq]⟩

theorem ChannelsKept.raiseIfFatal {s t : State} (h : ChannelsKept s t) (b : FaultBit) :
    ChannelsKept s (raiseIfFatal b t) := by
  unfold Machine.raiseIfFatal
  split
  · exact ⟨h.slots_eq, h.handed_eq⟩
  · exact h

theorem ChannelsKept.channelBytes_eq {s t : State} (h : ChannelsKept s t) (ch : Word32) :
    channelBytes ch t = channelBytes ch s := by
  have hfind : findSlot ch t = findSlot ch s := by rw [findSlot, h.slots_eq, findSlot]
  cases hf : findSlot ch s with
  | some i =>
    rw [channelBytes_of_findSlot hf, channelBytes_of_findSlot (hfind.trans hf), h.handed_eq, slotAt_eq, h.slots_eq,
      slotAt_eq]
  | none => rw [channelBytes_of_none hf, channelBytes_of_none (hfind.trans hf), h.handed_eq]

/-! ### Writes of a channel's slot -/

section
variable {k : Word32} {i : Nat} {sl : Slot} {s : State}

/-- A write of the slot of channel `k` that leaves it to `k`. -/
theorem findSlot_setSlot_own (h : findSlot k s = some i) (hown : sl.used = true ∧ sl.id = k) (ch : Word32) :
    findSlot ch (setSlot i sl s) = findSlot ch s := by
  obtain ⟨-, hu, hid⟩ := findSlot_some h
  exact findSlot_setSlot_of_iff (by rw [hu, hid, hown.1, hown.2])

/-- The channel's own bytes: what its reader has got, and the queue just written. -/
theorem channelBytes_setSlot_own (h : findSlot k s = some i) (hown : sl.used = true ∧ sl.id = k) :
    channelBytes k (setSlot i sl s) = handedBytes k s ++ sl.q := by
  rw [channelBytes_of_findSlot ((findSlot_setSlot_own h hown k).trans h),
    slotAt_setSlot _ _ _ _ (findSlot_some h).1, if_pos rfl, handedBytes_setSlot]

/-- A write of a slot that is not channel `ch`'s, and does not become its slot. -/
theorem channelBytes_setSlot_other {ch : Word32} (hold : ¬ ((slotAt s i).used = true ∧ (slotAt s i).id = ch))
    (hnew : ¬ (sl.used = true ∧ sl.id = ch)) : channelBytes ch (setSlot i sl s) = channelBytes ch s := by
  have hfind : findSlot ch (setSlot i sl s) = findSlot ch s := findSlot_setSlot_of_iff (iff_of_false hnew hold)
  cases hf : findSlot ch s with
  | some j =>
    have hij : i ≠ j := fun hij => hold (hij ▸ (findSlot_some hf).2)
    have hat : slotAt (setSlot i sl s) j = slotAt s j := by
      simp only [slotAt_eq, setSlot_slots, List.getD_eq_getElem?_getD, List.getElem?_set_ne hij]
    rw [channelBytes_of_findSlot hf, channelBytes_of_findSlot (hfind.trans hf), hat, handedBytes_setSlot]
  | none => rw [channelBytes_of_none hf, channelBytes_of_none (hfind.trans hf), handedBytes_setSlot]

/-- So a write of the slot of channel `k` shows in the bytes of `k` only. -/
theorem channelBytes_setSlot_ne {ch : Word32} (h : findSlot k s = some i) (hown : sl.used = true ∧ sl.id = k)
    (hne : k ≠ ch) : channelBytes ch (setSlot i sl s) = channelBytes ch s :=
  channelBytes_setSlot_other (fun hold => hne ((findSlot_some h).2.2.symm.trans hold.2)) fun hnew =>
    hne (hown.2.symm.trans hnew.2)

/-- A completed read of channel `k` hands `d` to its reader. -/
theorem channelBytes_handOver_own (h : findSlot k s = some i) (hown : sl.used = true ∧ sl.id = k) (d : List Byte) :
    channelBytes k (emit (.chRdDone k .ok d) (setSlot i sl s)) = handedBytes k s ++ d ++ sl.q := by
  have hfind : findSlot k (emit (.chRdDone k .ok d) (setSlot i sl s)) = some i :=
    (findSlot_setSlot_own h hown k).trans h
  rw [channelBytes_of_findSlot hfind, handedBytes_emit, handedBytes_setSlot, slotAt_emit,
    slotAt_setSlot _ _ _ _ (findSlot_some h).1, if_pos rfl, readBytes, if_pos rfl]

theorem channelBytes_handOver_ne {ch : Word32} (h : findSlot k s = some i) (hown : sl.used = true ∧ sl.id = k)
    (hne : k ≠ ch) (d : List Byte) :
    channelBytes ch (emit (.chRdDone k .ok d) (setSlot i sl s)) = channelBytes ch s :=
  (channelBytes_emit (by rw [readBytes, if_neg hne]) _).trans (channelBytes_setSlot_ne h hown hne)

/-- A write of the slot of channel `k` that leaves its queue shows in no channel's bytes. -/
theorem channelBytes_setSlot_sameQueue (h : findSlot k s = some i) (hown : sl.used = true ∧ sl.id = k)
    (hq : sl.q = (slotAt s i).q) (ch : Word32) : channelBytes ch (setSlot i sl s) = channelBytes ch s := by
  by_cases hne : k = ch
  · subst hne
    rw [channelBytes_setSlot_own h hown, channelBytes_of_findSlot h, hq]
  · exact channelBytes_setSlot_ne h hown hne

end

theorem SlotsOk.slotAt_ok {s : State} (h : SlotsOk s) {i : Nat} (hi : i < s.slots.length) : (slotAt s i).Ok s.cfg := by
  obtain ⟨-, hok, -⟩ := h
  exact hok _ (slotAt_eq_getElem hi ▸ List.getElem_mem hi)

/-- A claim takes a slot with an empty queue, so it shows in no channel's bytes (10_state.md R37 c, 44_channel.md
R210). -/
theorem channelBytes_claimSlot {k : Word32} {i : Nat} {s : State} (hs : SlotsOk s) (hf : findSlot k s = none)
    (hg : freeSlot s = some i) (ch : Word32) : channelBytes ch (claimSlot i k s) = channelBytes ch s := by
  obtain ⟨hi, hfree⟩ := freeSlot_some hg
  by_cases hne : k = ch
  · subst hne
    have hreset : slotAt s i = Slot.reset := by
      obtain ⟨-, -, -, -, hreset, -⟩ := hs.slotAt_ok hi
      exact hreset hfree
    have hq : (slotAt (claimSlot i k s) i).q = [] := by
      rw [claimSlot, slotAt_setSlot _ _ _ _ hi, if_pos rfl, hreset]
      rfl
    rw [channelBytes_of_findSlot (findSlot_claimSlot hf hi), hq, channelBytes_of_none hf, List.append_nil]
    rfl
  · exact channelBytes_setSlot_other (by simp [hfree]) fun hnew => hne hnew.2

/-- What `slot_lookup` hands on shows in no channel's bytes, and the slot it answers is the channel's. -/
theorem slotLookup_channelBytes {k : Word32} {create : Bool} {o : Option Nat} {s s' : State} (hs : SlotsOk s)
    (h : slotLookup k create s = (o, s')) :
    (∀ ch, channelBytes ch s' = channelBytes ch s) ∧ ∀ i, o = some i → findSlot k s' = some i := by
  obtain ⟨i, hf, hl⟩ | ⟨hf, -, i, hg, hl⟩ | ⟨-, -, hl⟩ := slotLookup_cases k create s <;> rw [hl] at h <;> cases h
  · exact ⟨fun _ => rfl, fun _ hj => hf.trans hj⟩
  · exact ⟨channelBytes_claimSlot hs hf hg, fun _ hj => (findSlot_claimSlot hf (freeSlot_some hg).1).trans hj⟩
  · exact ⟨fun _ => rfl, nofun⟩

/-! ### The channel operations -/

/-- CH.READ hands on bytes that were queued, or none (44_channel.md R213). -/
theorem chReadSlot_channelBytes {k : Word32} {i : Nat} {s : State} (h : findSlot k s = some i) (cap ch : Word32) :
    channelBytes ch (chReadSlot i k cap s) = channelBytes ch s := by
  have hown := (findSlot_some h).2
  unfold chReadSlot
  split
  · exact ChannelsKept.channelBytes_eq {} ch
  split
  · exact channelBytes_emit (by rw [readBytes, ite_self]) s
  split
  · by_cases hne : k = ch
    · subst hne
      rw [channelBytes_handOver_own h (by exact hown), List.append_assoc, List.take_append_drop,
        channelBytes_of_findSlot h]
    · exact channelBytes_handOver_ne h (by exact hown) hne _
  · exact channelBytes_setSlot_sameQueue h (by exact hown) (by rfl) ch

/-- CH.WRITE copies its bytes beside the queue (44_channel.md R214). -/
theorem chWriteSlot_channelBytes {k : Word32} {i : Nat} {s : State} (h : findSlot k s = some i) (data : List Byte)
    (ch : Word32) : channelBytes ch (chWriteSlot i k data s) = channelBytes ch s := by
  have hown := (findSlot_some h).2
  unfold chWriteSlot
  split
  · exact ChannelsKept.channelBytes_eq {} ch
  split
  · exact channelBytes_emit rfl s
  · exact channelBytes_setSlot_sameQueue h (by exact hown) (by rfl) ch

/-- TUNNEL.EMIT takes the pending write, not the queue (44_channel.md R215). -/
theorem tunnelEmitSlot_channelBytes {k : Word32} {i : Nat} {s : State} (h : findSlot k s = some i) (space ch : Word32) :
    channelBytes ch (tunnelEmitSlot i k space s) = channelBytes ch s := by
  have hown := (findSlot_some h).2
  by_cases hnone : (slotAt s i).pwr = false ∨ emitSize k (slotAt s i).pwrData.length space.toNat = 0
  · rw [tunnelEmitSlot_of_nothing hnone]
    exact channelBytes_emit rfl s
  · obtain ⟨hp, h0⟩ := not_or.mp hnone
    rw [tunnelEmitSlot_of_room (Bool.eq_true_of_not_eq_false hp) rfl h0, channelBytes_emit rfl, channelBytes_emit rfl]
    exact channelBytes_setSlot_sameQueue h (by exact hown) (by rfl) ch

theorem exec_chRead_channelBytes {k cap : Word32} {s t : State} (hs : SlotsOk s) (h : exec (.chRead k cap) s = .next t)
    (ch : Word32) : channelBytes ch t = channelBytes ch s := by
  rcases hl : slotLookup k true s with ⟨_ | i, s'⟩ <;> obtain ⟨hbytes, hfind⟩ := slotLookup_channelBytes hs hl
  · rw [exec_chRead_of_noSlot hl] at h
    cases h
    rw [channelBytes_emit (by rw [readBytes, ite_self]), ← hbytes]
    exact ((ChannelsKept.refl s').raiseIfFatal _).channelBytes_eq ch
  · rw [exec_chRead_of_slot hl] at h
    cases h
    rw [chReadSlot_channelBytes (hfind i rfl), hbytes]

theorem exec_chWrite_channelBytes {k : Word32} {data : List Byte} {s t : State} (hs : SlotsOk s)
    (h : exec (.chWrite k data) s = .next t) (ch : Word32) : channelBytes ch t = channelBytes ch s := by
  rcases hl : slotLookup k true s with ⟨_ | i, s'⟩ <;> obtain ⟨hbytes, hfind⟩ := slotLookup_channelBytes hs hl
  · rw [exec_chWrite_of_noSlot hl] at h
    cases h
    rw [channelBytes_emit rfl, ← hbytes]
    exact ((ChannelsKept.refl s').raiseIfFatal _).channelBytes_eq ch
  · rw [exec_chWrite_of_slot hl] at h
    cases h
    rw [chWriteSlot_channelBytes (hfind i rfl), hbytes]

theorem exec_tunnelEmit_channelBytes {k space : Word32} {s t : State} (hs : SlotsOk s)
    (h : exec (.tunnelEmit k space) s = .next t) (ch : Word32) : channelBytes ch t = channelBytes ch s := by
  rcases hl : slotLookup k false s with ⟨_ | i, s'⟩ <;> obtain ⟨hbytes, hfind⟩ := slotLookup_channelBytes hs hl
  · rw [exec_tunnelEmit_of_noSlot hl] at h
    cases h
    rw [channelBytes_emit rfl, hbytes]
  · rw [exec_tunnelEmit_of_slot hl] at h
    cases h
    rw [tunnelEmitSlot_channelBytes (hfind i rfl), hbytes]

/-! ### Incoming data -/

/-- What fits is queued whole, at the end (44_channel.md R212). -/
theorem queueIn_channelBytes {k : Word32} {i : Nat} {d : List Byte} {s : State} (h : findSlot k s = some i)
    (hfit : d.length ≤ s.cfg.queueCap - (slotAt s i).q.length) (ch : Word32) :
    channelBytes ch (queueIn i d s) = channelBytes ch s ++ if k = ch then d else [] := by
  have hown := (findSlot_some h).2
  rw [queueIn, if_neg (Nat.not_lt.mpr hfit), List.take_of_length_le hfit]
  split
  · next hk =>
    subst hk
    rw [channelBytes_setSlot_own h (by exact hown), channelBytes_of_findSlot h, List.append_assoc]
  · next hne => rw [channelBytes_setSlot_ne h (by exact hown) hne, List.append_nil]

/-- The state after the read parked on slot `i` has completed with the bytes `d` (43_demux.md R186). -/
def completeRead (i : Nat) (k : Word32) (d : List Byte) (s : State) : State :=
  emit (.chRdDone k .ok d) (setSlot i { slotAt s i with prd := false, prdCap := 0 } s)

section
variable {k : Word32} {i : Nat} {s : State} (h : findSlot k s = some i) (d : List Byte)

include h

theorem findSlot_completeRead : findSlot k (completeRead i k d s) = some i := by
  rw [completeRead, findSlot_emit, findSlot_setSlot_own h (by exact (findSlot_some h).2), h]

theorem completeRead_q : (slotAt (completeRead i k d s) i).q = (slotAt s i).q := by
  rw [completeRead, slotAt_emit, slotAt_setSlot _ _ _ _ (findSlot_some h).1, if_pos rfl]

/-- With nothing queued the bytes handed on go behind all that the channel had. -/
theorem completeRead_channelBytes (hq : (slotAt s i).q = []) (ch : Word32) :
    channelBytes ch (completeRead i k d s) = channelBytes ch s ++ if k = ch then d else [] := by
  have hown := (findSlot_some h).2
  rw [completeRead]
  split
  · next hk =>
    subst hk
    rw [channelBytes_handOver_own h (by exact hown), channelBytes_of_findSlot h, hq, List.append_nil, List.append_nil]
  · next hne => rw [channelBytes_handOver_ne h (by exact hown) hne, List.append_nil]

end

/-- A parked read is served, and the rest queued: the data goes behind what the channel had, as nothing is queued while
a read is parked (10_state.md R37 b, 43_demux.md R186). -/
theorem tunnelRxSlot_channelBytes {k : Word32} {i : Nat} {d : List Byte} {s : State} (hs : SlotsOk s)
    (h : findSlot k s = some i) (hfit : overflowsSlot i d s = false) (ch : Word32) :
    channelBytes ch (tunnelRxSlot i k d s) = channelBytes ch s ++ if k = ch then d else [] := by
  have hi := (findSlot_some h).1
  by_cases hd : d = []
  · rw [tunnelRxSlot, if_pos hd, hd, ite_self, List.append_nil]
  by_cases hp : (slotAt s i).prd = true
  · obtain ⟨m, hm⟩ : ∃ m, m = min d.length (slotAt s i).prdCap.toNat := ⟨_, rfl⟩
    have hserved : tunnelRxSlot i k d s = queueIn i (d.drop m) (completeRead i k (d.take m) s) :=
      tunnelRxSlot_of_parked hi hd hp hm k
    have hq : (slotAt s i).q = [] := by
      obtain ⟨-, -, hparked, -⟩ := hs.slotAt_ok hi
      exact hparked hp
    have hrest : (d.drop m).length ≤
        (completeRead i k (d.take m) s).cfg.queueCap - (slotAt (completeRead i k (d.take m) s) i).q.length := by
      rw [completeRead_q h]
      simpa [overflowsSlot, hp, ← hm, completeRead] using hfit
    rw [hserved, queueIn_channelBytes (findSlot_completeRead h _) hrest, completeRead_channelBytes h _ hq]
    split <;> simp
  · have hall : d.length ≤ s.cfg.queueCap - (slotAt s i).q.length := by simpa [overflowsSlot, hp] using hfit
    rw [tunnelRxSlot, if_neg hd, if_neg hp, queueIn_channelBytes h hall]

/-- Incoming data that finds a slot and fits is added to its channel, and to no other (43_demux.md R186). -/
theorem tunnelRx_channelBytes {k : Word32} {d : List Byte} {s : State} (hc : s.cfg.legal)
    (hs : SlotsOk s) (hfit : tunnelOverflows k d s = false) (ch : Word32) :
    channelBytes ch (tunnelRx k d s) = channelBytes ch s ++ if k = ch then d else [] := by
  rcases hl : slotLookup k true s with ⟨_ | i, s'⟩ <;> simp only [tunnelOverflows, hl] at hfit
  · cases hfit
  · obtain ⟨hbytes, hfind⟩ := slotLookup_channelBytes hs hl
    have hs' : SlotsOk s' := (slotLookup_effects hl).1.slotsOk hc hs
    rw [tunnelRx_of_slot hl, tunnelRxSlot_channelBytes hs' (hfind i rfl) hfit, hbytes]

/-! ### The walk -/

/-- A TunnelData row in one direction brings its bytes to its channel, in the other it is skipped (43_demux.md R185). -/
theorem handleTunnel_channelBytes {tag : Byte} {k : Word32} {d : List Byte} {s : State} (hc : s.cfg.legal)
    (hs : SlotsOk s) (hfit : (decide (rxTag s.cfg = tag) && tunnelOverflows k d s) = false) (ch : Word32) :
    channelBytes ch (handleTunnel tag k d s) =
      channelBytes ch s ++ if rxTag s.cfg = tag ∧ k = ch then d else [] := by
  by_cases htag : rxTag s.cfg = tag
  · have hfit' : tunnelOverflows k d s = false := by simpa [htag] using hfit
    rw [handleTunnel, if_pos htag.symm, tunnelRx_channelBytes hc hs hfit']
    simp only [htag, true_and]
  · rw [handleTunnel, if_neg (Ne.symm htag), if_neg (fun hand => htag hand.1), List.append_nil]

theorem handleSubframe_channelBytes {sub : Subframe} {s : State} (hc : s.cfg.legal) (hs : SlotsOk s)
    (hfit : subframeOverflows sub s = false) (ch : Word32) :
    channelBytes ch (handleSubframe sub s) = channelBytes ch s ++ subframeBytes s.cfg ch sub := by
  cases sub with
  | tunnelC2s k d => exact handleTunnel_channelBytes hc hs hfit ch
  | tunnelS2c k d => exact handleTunnel_channelBytes hc hs hfit ch
  | _ => exact (channelBytes_emit rfl s).trans (List.append_nil _).symm

/-- The rows one after another bring the bytes of the payload, in order (44_channel.md R217). -/
theorem handleSubframes_channelBytes {subs : List Subframe} {s : State} (hc : s.cfg.legal) (hs : SlotsOk s)
    (hfit : walkOverflows subs s = false) (ch : Word32) :
    channelBytes ch (handleSubframes subs s) = channelBytes ch s ++ (subs.map (subframeBytes s.cfg ch)).flatten := by
  induction subs generalizing s with
  | nil => exact (List.append_nil _).symm
  | cons sub subs ih =>
    obtain ⟨hsub, hsubs⟩ := Bool.or_eq_false_iff.mp hfit
    have hcfg := (handleSubframe_extends sub s).cfg_eq
    have hs' := (handleSubframe_effects sub s).slotsOk hc hs
    rw [handleSubframes_cons, ih (hcfg ▸ hc) hs' hsubs, handleSubframe_channelBytes hc hs hsub, hcfg, List.map_cons,
      List.flatten_cons, List.append_assoc]

theorem walk_channelBytes {p : List Byte} {s : State} (hc : s.cfg.legal) (hs : SlotsOk s)
    (hfit : walkOverflows (subframes p) s = false) (ch : Word32) :
    channelBytes ch (walk p s) = channelBytes ch s ++ payloadBytes s.cfg ch p := by
  rw [walk_eq_handleSubframes]
  exact handleSubframes_channelBytes hc hs hfit ch

end Sys2Proof.Machine
end

section
/-! Fragmentation transparency (44_channel.md R217): along a run with no overflow and no exhaustion a channel's bytes
grow by exactly what arrives for it; and under FATAL the fault register tells of every overflow and exhaustion. -/

namespace Sys2Proof.Machine

/-! ### What RX.BYTE does to the channels: the walk of the payload that it delivers -/

theorem rxGotLen_channelsKept (v : Word32) (s : State) : ChannelsKept s (rxGotLen v s) := by
  unfold rxGotLen
  split
  · obtain ⟨hslots, hhanded⟩ := (ChannelsKept.refl s).raiseIfFatal .rxFrameOverflow
    exact ⟨hslots, hhanded⟩
  · exact {}

/-- A byte that completes no frame brings nothing (42_frame.md R150). -/
theorem rxTake_channelsKept {b : Byte} {s : State} (h : ¬ Completes b s) : ChannelsKept s (rxTake b s) := by
  cases hst : s.rxState with
  | hunt0 => rw [rxTake_hunt0 b s hst, rxHunt0]; split <;> exact {}
  | hunt1 =>
    rw [rxTake_hunt1 b s hst, rxHunt1]
    split
    · exact {}
    split <;> exact {}
  | src => rw [rxTake_src b s hst]; exact {}
  | dst => rw [rxTake_dst b s hst]; exact {}
  | len =>
    rw [rxTake_len b s hst, rxTakeLen]
    split
    · exact {}
    · exact {}
    · exact ChannelsKept.trans {} (rxGotLen_channelsKept _ (rxAcc b s))
  | payload => rw [rxTake_payload b s hst]; exact {}
  | crc0 => rw [rxTake_crc0 b s hst]; exact {}
  | crc1 => rw [rxTake_crc1_mismatch hst fun hcrc => h ⟨hst, hcrc⟩]; exact {}

/-- The walk's payload is the frame's where the byte completes a frame for this block, and empty otherwise (42_frame.md
R148, 43_demux.md R180). -/
theorem walkedPayload_of_completes {b : Byte} {rest : List Byte} {s : State} (hf : s.inFifo = b :: rest)
    (hc : Completes b s) : walkedPayload s = if isForUs s.cfg s.rxDst = true then s.rxPay else [] := by
  simp [walkedPayload, hf, hc.1, hc.2]

theorem walkedPayload_of_not_completes {b : Byte} {rest : List Byte} {s : State} (hf : s.inFifo = b :: rest)
    (hc : ¬ Completes b s) : walkedPayload s = [] := by
  unfold walkedPayload
  split
  · next hst hf' =>
    cases hf.symm.trans hf'
    exact if_neg fun hand => hc ⟨hst, hand.1⟩
  · rfl

/-- The receiver just before it hands a payload to the walk: the frame's last byte is taken, the read over, and nothing
of the frame left (42_frame.md R148). -/
def handingOn (rest : List Byte) (s : State) : State := rxResync { s with inFifo := rest, rxArmed := false }

theorem handingOn_demuxMap (rest : List Byte) : DemuxMap (handingOn rest) where
  emit_map _ _ _ := rfl

/-- A frame for this block: the walk of its payload, but for what no channel sees. -/
theorem rxDeliver_forUs_walk {rest : List Byte} {s : State} (raw : List Byte) (h : isForUs s.cfg s.rxDst = true) :
    ∃ e, (∀ ch, readBytes ch e = []) ∧
      rxDeliver { s with inFifo := rest, rxRaw := raw } = emit e (handingOn rest (walk s.rxPay s)) := by
  rw [← (handingOn_demuxMap rest).walk_map]
  exact ⟨_, fun _ => rfl, rxDeliver_forUs_eq (s := { s with inFifo := rest, rxRaw := raw }) h⟩

/-- A frame for another block brings nothing (43_demux.md R181). -/
theorem rxDeliver_elsewhere_channelsKept {s : State} (h : isForUs s.cfg s.rxDst = false) :
    ChannelsKept s (rxDeliver s) := by
  simp only [rxDeliver, demuxFrame, rxResync_cfg, h]
  exact .emit (.emit {} _) _

/-- RX.BYTE is the walk of the payload that it delivers, but for what no channel sees, and it clears no fault bit. -/
theorem exec_rxByte_walk {s t : State} (h : exec .rxByte s = .next t) :
    ChannelsKept (walk (walkedPayload s) s) t ∧ FaultsKept (walk (walkedPayload s) s) t := by
  obtain ⟨-, b, rest, hf, rfl⟩ := exec_rxByte_eq_next h
  have hfaults : FaultsKept s (rxTake b { s with inFifo := rest }) := rxTake_faultsKept b { s with inFifo := rest }
  by_cases hc : Completes b s
  · have hdeliver : rxTake b { s with inFifo := rest } =
        rxDeliver { s with inFifo := rest, rxRaw := s.rxRaw ++ [b] } := rxTake_crc1_match hc.1 hc.2
    rw [hdeliver] at hfaults ⊢
    rw [walkedPayload_of_completes hf hc]
    split
    · next hus =>
      obtain ⟨e, he, hwalk⟩ := rxDeliver_forUs_walk (rest := rest) (s.rxRaw ++ [b]) hus
      rw [hwalk]
      exact ⟨.emit {} e he, .of_eq rfl⟩
    · next hus =>
      refine ⟨ChannelsKept.trans {} (rxDeliver_elsewhere_channelsKept ?_), hfaults⟩
      exact Bool.eq_false_iff.mpr hus
  · rw [walkedPayload_of_not_completes hf hc]
    exact ⟨ChannelsKept.trans {} (rxTake_channelsKept (s := { s with inFifo := rest }) hc), hfaults⟩

/-! ### What the other instructions do to the channels: nothing -/

theorem vuRestart_channelsKept (s : State) : ChannelsKept s (vuRestart s) := by
  unfold vuRestart
  split <;> exact {}

theorem vuTake_channelsKept (b : Byte) (s : State) : ChannelsKept s (vuTake b s) := by
  unfold vuTake
  split <;> exact .emit {} _

theorem execFrameWrite_channelsKept {rr : Byte} {src dst : Word32} {p : List Byte} {s t : State}
    (h : execFrameWrite rr src dst p s = .next t) : ChannelsKept s t := by
  unfold execFrameWrite at h
  split at h
  · cases h; exact {}
  split at h
  · cases h; exact .emit {} _
  · cases h; exact .emit {} _

theorem execTrWdone_channelsKept {o : OutCode} {s t : State} (h : execTrWdone o s = .next t) : ChannelsKept s t := by
  unfold execTrWdone at h
  split at h
  · split at h <;> cases h
    exact .emit {} _
  · cases h

/-- No command but RESET, and no internal step but RX.BYTE, adds to a channel's bytes or takes any away. -/
theorem exec_channelBytes {i : Instr} {s t : State} (hp : i.place = .command ∨ i.place = .trace) (hr : i ≠ .reset)
    (hb : i ≠ .rxByte) (hs : SlotsOk s) (h : exec i s = .next t) (ch : Word32) :
    channelBytes ch t = channelBytes ch s := by
  cases i with
  | crcInit | crcUpdate | vuDrst => cases h; exact ChannelsKept.channelBytes_eq {} ch
  | crcRead | vuEnc | statRead | faultRead => cases h; exact channelBytes_emit rfl s
  | vuDbyte b => cases h; exact ((vuRestart_channelsKept s).trans (vuTake_channelsKept b _)).channelBytes_eq ch
  | frameWrite => exact (execFrameWrite_channelsKept h).channelBytes_eq ch
  | trWdone => exact (execTrWdone_channelsKept h).channelBytes_eq ch
  | frameRead => obtain ⟨-, rfl⟩ | ⟨-, rfl⟩ := exec_frameRead_eq_next h <;> exact ChannelsKept.channelBytes_eq {} ch
  | trRdone => obtain ⟨-, -, rfl⟩ := exec_trRdone_eq_next h; exact ChannelsKept.channelBytes_eq {} ch
  | trRerr => obtain ⟨-, rfl⟩ := exec_trRerr_eq_next h; exact ChannelsKept.channelBytes_eq (.emit {} _) ch
  | rxFetch => obtain ⟨-, -, -, rfl⟩ := exec_rxFetch_eq_next h; exact ChannelsKept.channelBytes_eq (.emit {} _) ch
  | chRead => exact exec_chRead_channelBytes hs h ch
  | chWrite => exact exec_chWrite_channelBytes hs h ch
  | tunnelEmit => exact exec_tunnelEmit_channelBytes hs h ch
  | reset => exact absurd rfl hr
  | rxByte => exact absurd rfl hb
  | _ => simp [Instr.place] at hp

/-! ### Steps -/

/-- A step brings a channel the bytes of the payload that it delivers, and none if it delivers none. -/
theorem step_channelBytes {s t : State} (hs : s.Inv) (hn : notReset s = true) (ho : stepOverflows s = false)
    (h : step s = .next t) (ch : Word32) : channelBytes ch t = channelBytes ch s ++ stepArrival ch s := by
  obtain ⟨i, s', hm, hk, hx⟩ | ⟨hm, hk⟩ := step_eq_next h
  · have hkept : ChannelsKept s s' := ⟨by rw [hk], fun _ => by rw [hk]; rfl⟩
    obtain ⟨hc, -, -, hslots⟩ : s'.Inv := by rw [hk]; exact hs
    rw [← hkept.channelBytes_eq ch]
    by_cases hb : i = .rxByte
    · subst hb
      have harrival : stepArrival ch s = payloadBytes s'.cfg ch (walkedPayload s') := by simp only [stepArrival, hm]
      have hfit : walkOverflows (subframes (walkedPayload s')) s' = false := by simpa only [stepOverflows, hm] using ho
      rw [harrival, (exec_rxByte_walk hx).1.channelBytes_eq ch, walk_channelBytes hc hslots hfit]
    · have harrival : stepArrival ch s = [] := by
        simp only [stepArrival, hm]
        split
        · next he => cases he; exact absurd rfl hb
        · rfl
      rw [harrival, exec_channelBytes (nextMove_place hm) (ne_reset_of_notReset hn hm) hb hslots hx, List.append_nil]
  · have hkept : ChannelsKept s t := ⟨by rw [hk], fun _ => by rw [hk]; rfl⟩
    have harrival : stepArrival ch s = [] := by simp only [stepArrival, hm]
    rw [harrival, hkept.channelBytes_eq ch, List.append_nil]

/-! ### Runs -/

theorem runSteps_succ {n : Nat} {s t : State} (h : runSteps (n + 1) s = .next t) :
    ∃ u, step s = .next u ∧ runSteps n u = .next t := by
  rw [runSteps] at h
  cases hst : step s with
  | next u => rw [hst] at h; exact ⟨u, rfl, h⟩
  | fault r => rw [hst] at h; cases h
  | refused r => rw [hst] at h; cases h

section
variable {s u : State} (h : step s = .next u) (n : Nat)

include h

theorem resetFree_succ : resetFree (n + 1) s = (notReset s && resetFree n u) := by simp only [resetFree, h]

theorem overflowFree_succ : overflowFree (n + 1) s = (!stepOverflows s && overflowFree n u) := by
  simp only [overflowFree, h]

theorem arrived_succ (ch : Word32) : arrived ch (n + 1) s = stepArrival ch s ++ arrived ch n u := by
  simp only [arrived, h]

end

/-- Without overflow and exhaustion a channel's bytes grow by what arrives for it (44_channel.md R217). -/
theorem runSteps_channelBytes {n : Nat} {s t : State} (hs : s.Inv) (hn : resetFree n s = true)
    (ho : overflowFree n s = true) (h : runSteps n s = .next t) (ch : Word32) :
    channelBytes ch t = channelBytes ch s ++ arrived ch n s := by
  induction n generalizing s with
  | zero => cases h; exact (List.append_nil _).symm
  | succ n ih =>
    obtain ⟨u, hstep, hrun⟩ := runSteps_succ h
    rw [resetFree_succ hstep, Bool.and_eq_true] at hn
    rw [overflowFree_succ hstep, Bool.and_eq_true, Bool.not_eq_true'] at ho
    rw [ih (step_inv hs hstep) hn.2 ho.2 hrun, step_channelBytes hs hn.1 ho.1 hstep, arrived_succ hstep,
      List.append_assoc]

/-- Without a RESET a run clears no fault bit (60_exceptions.md R243). -/
theorem runSteps_faultsKept {n : Nat} {s t : State} (hn : resetFree n s = true) (h : runSteps n s = .next t) :
    FaultsKept s t := by
  induction n generalizing s with
  | zero => cases h; exact .of_eq rfl
  | succ n ih =>
    obtain ⟨u, hstep, hrun⟩ := runSteps_succ h
    rw [resetFree_succ hstep, Bool.and_eq_true] at hn
    have hfirst : FaultsKept s u := faultBitsAreSticky s u hn.1 hstep
    exact hfirst.trans (ih hn.2 hrun)

/-! ### Under FATAL an overflow or an exhaustion is recorded (44_channel.md R211, R212) -/

theorem FaultsKept.fault_ne_zero {s t : State} (h : FaultsKept s t) (hs : s.fault ≠ 0) : t.fault ≠ 0 := by
  intro ht
  rw [FaultsKept, ht, BitVec.ofNat_eq_ofNat, BitVec.and_zero] at h
  exact hs h.symm

theorem raiseIfFatal_fault_ne_zero {s : State} (hc : s.cfg.overflowPolicy = .fatal) (b : FaultBit) :
    (raiseIfFatal b s).fault ≠ 0 := by
  rw [raiseIfFatal_fault, if_pos hc]
  intro h
  have hmask : faultMask b ≠ 0 := by cases b <;> decide
  exact hmask (BitVec.or_eq_zero_iff.mp h).2

theorem tunnelRx_fault_ne_zero {k : Word32} {d : List Byte} {s : State} (hc : s.cfg.overflowPolicy = .fatal)
    (ho : tunnelOverflows k d s = true) : (tunnelRx k d s).fault ≠ 0 := by
  rcases hl : slotLookup k true s with ⟨o, s'⟩
  have hcfg : s'.cfg = s.cfg := by simpa only [hl] using (slotLookup_extends k true s).cfg_eq
  have hc' : s'.cfg.overflowPolicy = .fatal := hcfg ▸ hc
  cases o with
  | none =>
    rw [tunnelRx_of_noSlot hl]
    exact raiseIfFatal_fault_ne_zero hc' _
  | some i =>
    have ho' : overflowsSlot i d s' = true := by simpa only [tunnelOverflows, hl] using ho
    rw [tunnelRx_of_slot hl, tunnelRxSlot_fault, if_pos ho']
    exact raiseIfFatal_fault_ne_zero hc' _

theorem handleTunnel_fault_ne_zero {tag : Byte} {k : Word32} {d : List Byte} {s : State}
    (hc : s.cfg.overflowPolicy = .fatal) (ho : (decide (rxTag s.cfg = tag) && tunnelOverflows k d s) = true) :
    (handleTunnel tag k d s).fault ≠ 0 := by
  obtain ⟨htag, hover⟩ := Bool.and_eq_true_iff.mp ho
  rw [handleTunnel, if_pos (of_decide_eq_true htag).symm]
  exact tunnelRx_fault_ne_zero hc hover

theorem handleSubframe_fault_ne_zero {sub : Subframe} {s : State} (hc : s.cfg.overflowPolicy = .fatal)
    (ho : subframeOverflows sub s = true) : (handleSubframe sub s).fault ≠ 0 := by
  cases sub with
  | tunnelC2s k d => exact handleTunnel_fault_ne_zero hc ho
  | tunnelS2c k d => exact handleTunnel_fault_ne_zero hc ho
  | _ => cases ho

theorem walk_fault_ne_zero {p : List Byte} {s : State} (hc : s.cfg.overflowPolicy = .fatal)
    (ho : walkOverflows (subframes p) s = true) : (walk p s).fault ≠ 0 := by
  rw [walk_eq_handleSubframes]
  generalize subframes p = subs at ho
  induction subs generalizing s with
  | nil => cases ho
  | cons sub subs ih =>
    rw [handleSubframes_cons]
    obtain hsub | hsubs := Bool.or_eq_true_iff.mp ho
    · have hrest : FaultsKept (handleSubframe sub s) (handleSubframes subs (handleSubframe sub s)) :=
        handleSubframes_induction (.of_eq rfl) fun u hu sub _ => hu.trans (handleSubframe_effects sub u).faultsKept
      exact hrest.fault_ne_zero (handleSubframe_fault_ne_zero hc hsub)
    · exact ih ((handleSubframe_extends sub s).cfg_eq ▸ hc) hsubs

/-- A channel that finds no slot and none free. -/
theorem outOfSlots_eq_true {ch : Word32} {s : State} (h : outOfSlots ch s = true) :
    findSlot ch s = none ∧ freeSlot s = none := by
  simpa [outOfSlots] using h

theorem step_fault_ne_zero {s t : State} (hc : s.cfg.overflowPolicy = .fatal) (ho : stepOverflows s = true)
    (h : step s = .next t) : t.fault ≠ 0 := by
  obtain ⟨i, s', hm, hk, hx⟩ | ⟨hm, -⟩ := step_eq_next h
  · have hc' : s'.cfg.overflowPolicy = .fatal := by rw [hk]; exact hc
    simp only [stepOverflows, hm] at ho
    split at ho
    · next he =>
      cases he
      obtain ⟨hf, hg⟩ := outOfSlots_eq_true ho
      rw [exec_chRead_of_noSlot (slotLookup_of_none hf hg)] at hx
      cases hx
      exact raiseIfFatal_fault_ne_zero hc' _
    · next he =>
      cases he
      obtain ⟨hf, hg⟩ := outOfSlots_eq_true ho
      rw [exec_chWrite_of_noSlot (slotLookup_of_none hf hg)] at hx
      cases hx
      exact raiseIfFatal_fault_ne_zero hc' _
    · next he =>
      cases he
      exact (exec_rxByte_walk hx).2.fault_ne_zero (walk_fault_ne_zero hc' ho)
    · cases ho
  · simp [stepOverflows, hm] at ho

/-- So a run that ends without a fault had none of either. -/
theorem overflowFree_of_fault_eq_zero {n : Nat} {s t : State} (hc : s.cfg.overflowPolicy = .fatal)
    (hn : resetFree n s = true) (h : runSteps n s = .next t) (ht : t.fault = 0) : overflowFree n s = true := by
  induction n generalizing s with
  | zero => rfl
  | succ n ih =>
    obtain ⟨u, hstep, hrun⟩ := runSteps_succ h
    rw [resetFree_succ hstep, Bool.and_eq_true] at hn
    have hfirst : stepOverflows s = false := Bool.eq_false_iff.mpr fun ho =>
      (runSteps_faultsKept hn.2 hrun).fault_ne_zero (step_fault_ne_zero hc ho hstep) ht
    have hrest := ih ((step_extends hstep).cfg_eq ▸ hc) hn.2 hrun
    rw [overflowFree_succ hstep, hfirst, hrest]
    rfl

/-- Settles O38: step by step a channel's bytes grow by what arrives, and a fault bit that an overflow or an exhaustion
sets stays set to the end of the run. -/
theorem fragmentationTransparency : Obligations.FragmentationTransparency :=
  ⟨fun ch _ _ _ hs hn ho h _ => runSteps_channelBytes hs hn ho h ch,
    fun _ _ _ _ hc hn h ht => overflowFree_of_fault_eq_zero hc hn h ht⟩

end Sys2Proof.Machine
end

section
/-! Which inputs have no step (60_exceptions.md R249): the guard of each instruction, and the records that spell none. -/

namespace Sys2Proof.Machine

/-! ### The guards -/

/-- The guard of each instruction. The transport's answers ask for an outstanding request and an operand in range
(60_exceptions.md R249 b to e), and the internal steps for what they need of the receive port (42_frame.md R149, R150);
no other instruction has a guard. -/
def Guarded (s : State) : Instr → Prop
  | .trWdone o => (o = .ok ∨ o = .errTransport) ∧ s.txBusy = true
  | .trRdone chunk => s.trRdPending = true ∧ chunk.length ≤ s.cfg.rxChunkMax
  | .trRerr => s.trRdPending = true
  | .rxFetch => s.rxArmed = true ∧ s.inFifo = [] ∧ s.trRdPending = false
  | .rxByte => s.rxArmed = true ∧ s.inFifo ≠ []
  | _ => True

/-- TR.WDONE completes an outstanding write, with an outcome that it may carry (42_frame.md R142). -/
theorem exec_trWdone_eq_next {o : OutCode} {s t : State} (h : exec (.trWdone o) s = .next t) :
    (o = .ok ∨ o = .errTransport) ∧ s.txBusy = true ∧ t = emit (.frameWrDone o) { s with txBusy := false } := by
  change execTrWdone o s = .next t at h
  unfold execTrWdone at h
  split at h
  · next ho =>
    split at h <;> cases h
    next hb => exact ⟨ho, hb, rfl⟩
  · cases h

theorem guarded_of_exec_eq_next {i : Instr} {s t : State} (h : exec i s = .next t) : Guarded s i := by
  cases i with
  | trWdone o => obtain ⟨ho, hb, -⟩ := exec_trWdone_eq_next h; exact ⟨ho, hb⟩
  | trRdone chunk => obtain ⟨hp, hl, -⟩ := exec_trRdone_eq_next h; exact ⟨hp, hl⟩
  | trRerr => exact (exec_trRerr_eq_next h).1
  | rxFetch => obtain ⟨ha, hf, hp, -⟩ := exec_rxFetch_eq_next h; exact ⟨ha, hf, hp⟩
  | rxByte =>
    obtain ⟨ha, b, rest, hf, -⟩ := exec_rxByte_eq_next h
    exact ⟨ha, by simp [hf]⟩
  | _ => trivial

theorem exec_frameWrite_runs (rr : Byte) (src dst : Word32) (p : List Byte) (s : State) :
    ∃ t, exec (.frameWrite rr src dst p) s = .next t := by
  change ∃ t, execFrameWrite rr src dst p s = .next t
  unfold execFrameWrite
  split
  · exact ⟨_, rfl⟩
  split
  · exact ⟨_, rfl⟩
  · exact ⟨_, rfl⟩

theorem exec_frameRead_runs (s : State) : ∃ t, exec .frameRead s = .next t := by
  change ∃ t, execFrameRead s = .next t
  unfold execFrameRead
  split
  · exact ⟨_, rfl⟩
  · exact ⟨_, rfl⟩

section
variable (ch : Word32) (s : State)

/-- With a slot or without one, a channel operation answers (44_channel.md R213 to R215). -/
theorem exec_chRead_runs (cap : Word32) : ∃ t, exec (.chRead ch cap) s = .next t := by
  rcases hl : slotLookup ch true s with ⟨_ | i, s'⟩
  · exact ⟨_, exec_chRead_of_noSlot hl cap⟩
  · exact ⟨_, exec_chRead_of_slot hl cap⟩

theorem exec_chWrite_runs (data : List Byte) : ∃ t, exec (.chWrite ch data) s = .next t := by
  rcases hl : slotLookup ch true s with ⟨_ | i, s'⟩
  · exact ⟨_, exec_chWrite_of_noSlot hl data⟩
  · exact ⟨_, exec_chWrite_of_slot hl data⟩

theorem exec_tunnelEmit_runs (space : Word32) : ∃ t, exec (.tunnelEmit ch space) s = .next t := by
  rcases hl : slotLookup ch false s with ⟨_ | i, s'⟩
  · exact ⟨_, exec_tunnelEmit_of_noSlot hl space⟩
  · exact ⟨_, exec_tunnelEmit_of_slot hl space⟩

end

theorem exec_runs_of_guarded {i : Instr} {s : State} (h : Guarded s i) : ∃ t, exec i s = .next t := by
  cases i with
  | frameWrite rr src dst p => exact exec_frameWrite_runs rr src dst p s
  | trWdone o => obtain ⟨ho, hb⟩ := h; exact ⟨_, exec_trWdone_of_busy ho hb⟩
  | frameRead => exact exec_frameRead_runs s
  | trRdone chunk => obtain ⟨hp, hl⟩ := h; exact ⟨_, exec_trRdone_of_pending hp hl⟩
  | trRerr => exact ⟨_, if_pos h⟩
  | chRead ch cap => exact exec_chRead_runs ch s cap
  | chWrite ch data => exact exec_chWrite_runs ch s data
  | tunnelEmit ch space => exact exec_tunnelEmit_runs ch s space
  | rxFetch => obtain ⟨ha, hf, hp⟩ := h; exact ⟨_, exec_rxFetch_of_enabled ha hf hp⟩
  | rxByte => exact ⟨_, if_pos (rxByteEnabled_iff.mpr h)⟩
  | _ => exact ⟨_, rfl⟩

/-- An instruction has a step exactly where its guard holds. -/
theorem exec_runs_iff {i : Instr} {s : State} : (∃ t, exec i s = .next t) ↔ Guarded s i :=
  ⟨fun ⟨_, h⟩ => guarded_of_exec_eq_next h, exec_runs_of_guarded⟩

/-! ### The opcodes of the command port -/

/-- The opcodes of 30_encoding.md R89's table. -/
def portOpcodes : List Byte :=
  [0x01, 0x02, 0x03, 0x08, 0x09, 0x0A, 0x10, 0x11, 0x12, 0x13, 0x14, 0x20, 0x21, 0x22, 0x30, 0x31, 0x32]

theorem decodeCommand_of_not_mem {op : Byte} (h : op ∉ portOpcodes) (r : List Byte) :
    decodeCommand (op :: r) = .err (.unknownOpcode op) := by
  simp only [portOpcodes, List.mem_cons, List.not_mem_nil, or_false, not_or] at h
  simp only [decodeCommand, h, if_false]

/-- A presented record that spells nothing has no step (60_exceptions.md R249). -/
theorem step_of_env_of_err {s : State} {sched : List Turn} {e : DecodeError} (hs : s.sched = .env :: sched)
    (hp : s.port ≠ []) (h : decodeCommand s.port = .err e) : step s = .refused (.badRecord e) := by
  have hmove : nextMove s = .refuse (.badRecord e) := by
    rw [nextMove_of_env hs, envTurn, if_neg hp, presentRecord, h]
  rw [step, hmove]

/-- Settles O53: the listed inputs are the failures of the guards, and a record with another opcode decodes to
nothing. -/
theorem refusedExactlyWhereTheSpecSays : Obligations.RefusedExactlyWhereTheSpecSays := by
  refine ⟨fun i s => ?_, fun op r hop => ?_⟩
  · rw [exec_runs_iff]
    cases i with
    | trWdone o => cases o <;> simp [Guarded]
    | trRdone chunk => simp [Guarded, imp_iff_not_or]
    | trRerr => simp [Guarded]
    | rxFetch => simp [Guarded, imp_iff_not_or]
    | rxByte => simp [Guarded, imp_iff_not_or]
    | _ => simp [Guarded]
  · have hdec := decodeCommand_of_not_mem hop r
    exact ⟨hdec, fun _ _ => step_of_env_of_err rfl nofun hdec⟩

end Sys2Proof.Machine
end

section
/-! STAT.READ and FAULT.READ (60_exceptions.md R253), and the rule's example, in which the transport answers every
request with one byte. -/

namespace Sys2Proof.Machine

/-! ### A frame fed byte by byte -/

/-- The operations that bring the receiver `bytes`, a chunk of one byte each. -/
def feedBytes (bytes : List Byte) : List Instr := bytes.flatMap fun b => [.rxFetch, .trRdone [b], .rxByte]

/-- One byte asked for and taken (42_frame.md R149, R150). -/
def fetchByte (s : State) (b : Byte) : State := rxTake b (emit (.trReadReq s.cfg.rxChunkMax) s)

theorem fetchByte_frame (s : State) (b : Byte) :
    (fetchByte s b).cfg = s.cfg ∧ (fetchByte s b).inFifo = s.inFifo ∧
      (fetchByte s b).trRdPending = s.trRdPending := by
  obtain ⟨hcfg, -, hfifo, hpend⟩ := rxTake_frame b (emit (.trReadReq s.cfg.rxChunkMax) s)
  exact ⟨hcfg, hfifo, hpend⟩

/-- No byte arms the receiver. -/
theorem rxArmed_of_rxTake {b : Byte} {s : State} (h : (rxTake b s).rxArmed = true) : s.rxArmed = true := by
  obtain ⟨u, hu, he⟩ | ⟨-, he⟩ := rxTake_cases b s
  · rwa [he.outsideReceiver, hu] at h
  · rw [he, rxDeliver_rxArmed] at h
    cases h

/-- Each byte is asked for, brought by the transport and taken (42_frame.md R144, R149, R150). -/
theorem execList_feedByte {s : State} (h : AwaitsChunk s) (hc : 1 ≤ s.cfg.rxChunkMax) (b : Byte) :
    execList (feedBytes [b]) s = .next (fetchByte s b) := by
  have hanswer : exec (.trRdone [b])
      { s with trRdPending := true, out := s.out ++ [.trReadReq s.cfg.rxChunkMax] } =
        .next { s with trRdPending := false, inFifo := [b], out := s.out ++ [.trReadReq s.cfg.rxChunkMax] } :=
    exec_trRdone_of_pending rfl hc
  have htake : exec .rxByte
      { s with trRdPending := false, inFifo := [b], out := s.out ++ [.trReadReq s.cfg.rxChunkMax] } =
        .next (rxTake b
          { s with trRdPending := false, inFifo := [], out := s.out ++ [.trReadReq s.cfg.rxChunkMax] }) :=
    exec_rxByte_cons h.armed rfl
  simp only [feedBytes, List.flatMap_cons, List.flatMap_nil, List.append_nil, execList,
    exec_rxFetch_of_enabled h.armed h.empty h.idle, hanswer, htake]
  rw [fetchByte, emit, ← h.idle, ← h.empty]

/-- As long as the receiver stays armed it takes one byte after another. -/
theorem execList_feedBytes {bytes : List Byte} {s : State} (h : AwaitsChunk s) (hc : 1 ≤ s.cfg.rxChunkMax)
    (ha : (bytes.foldl fetchByte s).rxArmed = true) :
    execList (feedBytes bytes) s = .next (bytes.foldl fetchByte s) ∧ AwaitsChunk (bytes.foldl fetchByte s) ∧
      (bytes.foldl fetchByte s).cfg = s.cfg := by
  induction bytes using List.reverseRecOn with
  | nil => exact ⟨rfl, h, rfl⟩
  | append_singleton bytes b ih =>
    rw [List.foldl_concat] at ha ⊢
    obtain ⟨hrun, hwait, hcfg⟩ := ih (rxArmed_of_rxTake (s := emit _ _) ha)
    obtain ⟨hcfg', hfifo, hpend⟩ := fetchByte_frame (bytes.foldl fetchByte s) b
    refine ⟨?_, ⟨ha, hfifo.trans hwait.empty, hpend.trans hwait.idle⟩, hcfg'.trans hcfg⟩
    rw [feedBytes, List.flatMap_append]
    exact (execList_append_of_next hrun _).trans (execList_feedByte hwait (by rwa [hcfg]) b)

/-- The example's receiver before the frame's last byte: six requests have been answered. -/
def exampleHolding (c : Config) : State :=
  holdingFrame 0x01 0x02 [0x00] [] 0x03
    { State.init c with rxArmed := true, out := List.replicate 6 (.trReadReq c.rxChunkMax) }

/-- Its first six bytes are one row of the receiver's table each: HUNT0, HUNT1, SRC, DST, LEN (with no payload to
follow) and CRC0 (42_frame.md R150). -/
theorem foldl_fetchByte_example (c : Config) :
    ([0x54, 0xAB, 0x01, 0x02, 0x00, 0x03] : List Byte).foldl fetchByte { State.init c with rxArmed := true } =
      exampleHolding c := by
  simp [fetchByte, emit, State.init, rxTake, rxHunt0, rxStart, rxHunt1, rxAcc, rxTakeSrc, rxTakeDst, rxTakeLen, vuStep,
    rxGotLen, rxTakeCrc0, exampleHolding, holdingFrame, crc16, List.replicate]

/-- The last byte of a frame for another block is counted (43_demux.md R181). -/
theorem rxTake_wrongId_of_completes {b : Byte} {s : State} (h : Completes b s)
    (hus : isForUs s.cfg s.rxDst = false) : (rxTake b s).wrongId = s.wrongId + 1 := by
  obtain ⟨hst, hcrc⟩ := h
  rw [rxTake_crc1_match hst hcrc, rxDeliver_elsewhere (s := { s with rxRaw := s.rxRaw ++ [b] }) hus]

theorem fetchByte_wrongId_of_completes {b : Byte} {s : State} (h : Completes b s)
    (hus : isForUs s.cfg s.rxDst = false) : (fetchByte s b).wrongId = s.wrongId + 1 :=
  rxTake_wrongId_of_completes (s := emit (.trReadReq s.cfg.rxChunkMax) s) h hus

/-- The example's checksum is right (vector K7), so the byte `0x28` is the last one. -/
theorem completes_exampleHolding (c : Config) : Completes 0x28 (exampleHolding c) := by
  refine ⟨rfl, ?_⟩
  simp only [exampleHolding, holdingFrame, List.cons_append, List.nil_append, crc16_emptyFrameBody]
  decide

/-- The example of 60_exceptions.md R253, up to its STAT.READ: the last byte hands the frame to the address filter. -/
theorem execList_feedExample {c : Config} (hc : c.legal) (hid : c.ownId ≠ 2) :
    ∃ t, execList (.frameRead :: feedBytes [0x54, 0xAB, 0x01, 0x02, 0x00, 0x03, 0x28]) (State.init c) = .next t ∧
      t.wrongId = 1 := by
  obtain ⟨-, -, hchunk, -⟩ := hc
  have helse : isForUs c 0x02 = false := isForUs_eq_false.mpr fun h => hid (by bv_omega)
  have hread : exec .frameRead (State.init c) = .next { State.init c with rxArmed := true } :=
    exec_frameRead_of_unarmed rfl
  have hrun := execList_feedBytes (bytes := [0x54, 0xAB, 0x01, 0x02, 0x00, 0x03])
    (s := { State.init c with rxArmed := true }) ⟨rfl, rfl, rfl⟩ hchunk (by rw [foldl_fetchByte_example]; rfl)
  rw [foldl_fetchByte_example] at hrun
  obtain ⟨hrun, hwait, hcfg⟩ := hrun
  have hcount : (fetchByte (exampleHolding c) 0x28).wrongId = 1 :=
    fetchByte_wrongId_of_completes (completes_exampleHolding c) helse
  refine ⟨fetchByte (exampleHolding c) 0x28, ?_, hcount⟩
  rw [execList, hread]
  exact (execList_append_of_next hrun _).trans (execList_feedByte hwait hchunk 0x28)

/-! ### The counter -/

/-- The address filter counts a frame for another block, and `0xFFFFFFFF` wraps to 0 (43_demux.md R181). -/
theorem demuxFrame_wrongId_of_elsewhere {dst : Byte} {s : State} (h : isForUs s.cfg dst = false) (p raw : List Byte) :
    (demuxFrame dst p raw s).wrongId = s.wrongId + 1 := by
  rw [demuxFrame, h]
  rfl

/-- Settles O47: the reads by their definitions, the wrap by the filter's addition, and the example as the run above
with STAT.READ after it. -/
theorem statusReadsAnswerAndClearNothing : Obligations.StatusReadsAnswerAndClearNothing := by
  refine ⟨fun _ => rfl, fun _ => rfl, fun _ => rfl, fun _ => rfl, fun raw p dst s hdst hmax => ?_, fun c hc hid => ?_⟩
  · rw [demuxFrame_wrongId_of_elsewhere (isForUs_eq_false.mpr hdst), hmax]
    rfl
  · obtain ⟨u, hrun, hcount⟩ := execList_feedExample hc hid
    refine ⟨emit (.statValue u.wrongId) u, execList_append_of_next hrun [.statRead], ?_⟩
    simp [hcount]

end Sys2Proof.Machine
end

section
/-! A block just constructed (70_reset_and_hazards.md R271): no frame has begun, so the receiver meets its invariants in
the state a resynchronisation leaves, and every slot is free. -/

namespace Sys2Proof.Machine

/-- Construction leaves the receiver where a resynchronisation leaves it (10_state.md R40). -/
theorem init_resynced (c : Config) : Resynced (State.init c) := ⟨rfl, rfl, rfl, rfl, rfl, rfl⟩

theorem init_rawOk (c : Config) : RawOk (State.init c) := (init_resynced c).rawOk

/-- TC is within the bounds of 00_scope.md R6, so what holds of every legal configuration holds of `State.reset`. -/
theorem tc_legal : Config.tc.legal := by decide

/-- Settles O58: both invariants hold of a block constructed with any legal configuration, and TC is one. -/
theorem constructionMeetsTheInvariants : Obligations.ConstructionMeetsTheInvariants :=
  ⟨fun c hc => ⟨init_inv hc, init_rawOk c⟩, init_inv tc_legal⟩

end Sys2Proof.Machine
end
